-- ==== Sys2Proof/Word.lean ====
section
/-! DEFINITION. The word types of GWCORE (spec/00_scope.md R8, R9, R13): every value of the block is unsigned, bit 0 the least significant. -/

namespace Sys2Proof

/-- A data byte or parity byte, 0 to 255 (R13). -/
abbrev Byte := BitVec 8

/-- A 10-bit channel word: bit 9 is transmitted first (R8, R52). -/
abbrev ChannelWord := BitVec 10

/-- An 11-bit entry of the symbol ROM: bit 10 the next disparity, bits 9..0 the channel word (R41). -/
abbrev Entry := BitVec 11

/-- A 16-bit command word (R70). -/
abbrev CommandWord := BitVec 16

/-- A 16-bit response word (R77). -/
abbrev ResponseWord := BitVec 16

end Sys2Proof
end

