-- ==== Sys2Proof/Config.lean ====
section
/-! DEFINITION. What is fixed for the block by its source (spec/00_scope.md R7). The table contents and code parameters that the spec
supplies from general knowledge are named constants of Sys2Proof/Machine/Rom.lean (SYMBOL_TABLE, SYNC_WORD, FIELD_POLY, A0) and
Sys2Proof/Machine/GeneratorRom.lean (FCR, PRIM), where each can be replaced on its own and the tables follow. No value of GWCORE is left
free: 92_eei_decisions.md and 93_implementation_defined.md decide every open point but the frame length, which the block neither holds
nor reads. -/

namespace Sys2Proof.Config

/-- NP, the parity bytes per frame (R7, R28). -/
abbrev parityBytes : Nat := 32

/-- N, the length of the full code (R7). -/
def codeLength : Nat := 255

/-- K_FULL, the data bytes of the full code (R7). -/
def fullDataLength : Nat := 223

/-- Bytes in one row of the symbol ROM and entries in each Galois-field ROM (R41, R47, R48). -/
abbrev romLength : Nat := 256

/-- Entries of the half generator table (R49). -/
abbrev halfGeneratorLength : Nat := 17

/-- The values FRAME_DATA_LEN may take (R7, 92_eei_decisions.md D21): the host's choice, held and enforced by the host alone. -/
def frameDataLengthAllowed (k : Nat) : Bool := decide (1 ≤ k) && decide (k ≤ fullDataLength)

end Sys2Proof.Config
end

