-- ==== Sys2Proof/Syntax.lean ====
section
/-! DEFINITION. The commands of GWCORE (spec/30_encoding.md R73, spec/opcode_table.json), the assembly lines of R79 and the
pseudo-instructions of R80. -/

namespace Sys2Proof

/-- The disparity type of R11: NEG, more 0s than 1s have been sent; POS, more 1s. -/
inductive Disparity where
  | neg
  | pos
deriving DecidableEq, Repr

/-- One constructor per row of spec/opcode_table.json. The operand types are the operand widths of R71, so no operand out of range
can be written down (R56). -/
inductive Instr where
  /-- ENC_BYTE, R101. -/
  | encByte (byte : Byte)
  /-- ENC_EOF, R102. -/
  | encEof
  /-- ENC_SET_RD, R103. -/
  | encSetRd (d : Disparity)
  /-- ENC_GET_RD, R104. -/
  | encGetRd
  /-- DEC_SYMBOL, R132; `c` is try_complement. -/
  | decSymbol (c : Bool) (word : ChannelWord)
  /-- DEC_DISPARITY_OF, R133. -/
  | decDisparityOf (word : ChannelWord)
  /-- DEC_NEXT_DISPARITY, R134. -/
  | decNextDisparity (word : ChannelWord)
  /-- DEC_VALIDATE, R135. -/
  | decValidate (word : ChannelWord)
  /-- DEC_SET_RD, R136. -/
  | decSetRd (d : Disparity)
  /-- DEC_GET_RD, R137. -/
  | decGetRd
  /-- RS_RESET, R174. -/
  | rsReset
  /-- RS_UPDATE, R175. -/
  | rsUpdate (byte : Byte)
  /-- RS_READ, R176; `idx` is the parity index 0 to 31. -/
  | rsRead (idx : BitVec 5)
deriving DecidableEq, Repr

/-- An assembly line of R79, as written: its numbers are not yet checked against the operand widths. -/
inductive Line where
  /-- `enc.byte B` -/
  | encByte (b : Nat)
  /-- `enc.eof` -/
  | encEof
  /-- `enc.setrd neg`, `enc.setrd pos` -/
  | encSetrd (d : Disparity)
  /-- `enc.getrd` -/
  | encGetrd
  /-- `dec.sym W` -/
  | decSym (w : Nat)
  /-- `dec.sym.c W` -/
  | decSymC (w : Nat)
  /-- `dec.disp W` -/
  | decDisp (w : Nat)
  /-- `dec.next W` -/
  | decNext (w : Nat)
  /-- `dec.val W` -/
  | decVal (w : Nat)
  /-- `dec.setrd neg`, `dec.setrd pos` -/
  | decSetrd (d : Disparity)
  /-- `dec.getrd` -/
  | decGetrd
  /-- `rs.reset` -/
  | rsReset
  /-- `rs.update B` -/
  | rsUpdate (b : Nat)
  /-- `rs.read I` -/
  | rsRead (i : Nat)
deriving DecidableEq, Repr

/-- The host-side pseudo-instructions of R80. -/
inductive Pseudo where
  /-- `tx B` -/
  | tx (b : Byte)
  /-- `tx.parity` -/
  | txParity
  /-- `tx.end` -/
  | txEnd
  /-- `frame.start` -/
  | frameStart
deriving DecidableEq, Repr

end Sys2Proof
end

