-- ==== Sys2Proof/WellFormed.lean ====
section
/-! DEFINITION. What must be checked about syntax before it is a command. The operands of Instr carry their widths in their types, so
every term of Instr is a command (spec/20_memory.md R56: "no out-of-range index can be encoded"); what can be ill-formed is an assembly
line (spec/30_encoding.md R79: "An operand out of its range is an assembly error, not a command"). Whether a 16-bit word is a command
is the decoder's question (R74), answered in Sys2Proof/Decode.lean. -/

namespace Sys2Proof

/-- A byte operand of a line is 0 to 255 (R79). -/
def byteInRange (b : Nat) : Bool := decide (b < 256)

/-- A channel word operand of a line is 0 to 0x3FF (R79). -/
def channelWordInRange (w : Nat) : Bool := decide (w < 1024)

/-- A parity index operand of a line is 0 to 31 (R79). -/
def parityIndexInRange (i : Nat) : Bool := decide (i < 32)

/-- The range check of R79, line by line. -/
def Line.wellFormed : Line → Bool
  | .encByte b => byteInRange b
  | .encEof => true
  | .encSetrd _ => true
  | .encGetrd => true
  | .decSym w => channelWordInRange w
  | .decSymC w => channelWordInRange w
  | .decDisp w => channelWordInRange w
  | .decNext w => channelWordInRange w
  | .decVal w => channelWordInRange w
  | .decSetrd _ => true
  | .decGetrd => true
  | .rsReset => true
  | .rsUpdate b => byteInRange b
  | .rsRead i => parityIndexInRange i

end Sys2Proof
end

