-- ==== Sys2Proof/Decode.lean ====
section
/-! DEFINITION. The command word (spec/30_encoding.md R70 to R75): its fields, the decoder, total on all 65536 words and rejecting by
name, and after it the encoder and the assembler (R79), written from the same tables. A command word is one 16-bit unit transferred
whole, so there is no byte order to settle (spec/20_memory.md R55). -/

namespace Sys2Proof

/-- The bit of a disparity, NEG = 0 and POS = 1 (R11). -/
def Disparity.bit : Disparity → BitVec 1
  | .neg => 0#1
  | .pos => 1#1

/-- The disparity of a bit (R11). -/
def Disparity.ofBit (b : BitVec 1) : Disparity := if b = 1#1 then .pos else .neg

/-! ### The fields of a command word (R70, R71) -/

/-- `op = cmd[15:12]`. -/
def cmdOp (w : CommandWord) : BitVec 4 := w.extractLsb' 12 4

/-- `f = cmd[11]`: try_complement for DEC_SYMBOL, the disparity for the two SET_RD commands, else 0. -/
def cmdFlag (w : CommandWord) : BitVec 1 := w.extractLsb' 11 1

/-- `z = cmd[10]`, reserved, must be 0. -/
def cmdReserved (w : CommandWord) : BitVec 1 := w.extractLsb' 10 1

/-- `opd = cmd[9:0]`, whole: the channel word of formats W and WC. -/
def cmdWord (w : CommandWord) : ChannelWord := w.extractLsb' 0 10

/-- `byte = cmd[7:0]`, the data byte of format B. -/
def cmdByte (w : CommandWord) : Byte := w.extractLsb' 0 8

/-- `idx = cmd[4:0]`, the parity index of format I. -/
def cmdIdx (w : CommandWord) : BitVec 5 := w.extractLsb' 0 5

/-- Why a word is no command (R74). The block raises the one fault ILLEGAL_COMMAND for all of them and keeps no reason (R214). -/
inductive DecodeError where
  /-- R74 (a): the opcode is 0x0, 0xE or 0xF. -/
  | reservedOpcode
  /-- R74 (b): bit 10 is 1. -/
  | reservedBitSet
  /-- R74 (c): bit 11 is 1 for an opcode without a flag. -/
  | flagBitSet
  /-- R74 (d), (e), (f): an operand bit that the format fixes to zero is 1. -/
  | operandBitsSet
deriving DecidableEq, Repr

/-! ### The six formats (R72): each checks its fixed-zero bits and hands on its fields -/

/-- Format B, `oooo 0 0 00 bbbbbbbb`. -/
def formatB (w : CommandWord) (k : Byte → Instr) : Except DecodeError Instr :=
  if cmdFlag w ≠ 0#1 then .error .flagBitSet
  else if cmdReserved w ≠ 0#1 then .error .reservedBitSet
  else if w.extractLsb' 8 2 ≠ 0#2 then .error .operandBitsSet
  else .ok (k (cmdByte w))

/-- Format N, `oooo 0 0 0000000000`. -/
def formatN (w : CommandWord) (i : Instr) : Except DecodeError Instr :=
  if cmdFlag w ≠ 0#1 then .error .flagBitSet
  else if cmdReserved w ≠ 0#1 then .error .reservedBitSet
  else if cmdWord w ≠ 0#10 then .error .operandBitsSet
  else .ok i

/-- Format S, `oooo d 0 0000000000`. -/
def formatS (w : CommandWord) (k : Disparity → Instr) : Except DecodeError Instr :=
  if cmdReserved w ≠ 0#1 then .error .reservedBitSet
  else if cmdWord w ≠ 0#10 then .error .operandBitsSet
  else .ok (k (Disparity.ofBit (cmdFlag w)))

/-- Format W, `oooo 0 0 wwwwwwwwww`. -/
def formatW (w : CommandWord) (k : ChannelWord → Instr) : Except DecodeError Instr :=
  if cmdFlag w ≠ 0#1 then .error .flagBitSet
  else if cmdReserved w ≠ 0#1 then .error .reservedBitSet
  else .ok (k (cmdWord w))

/-- Format WC, `oooo c 0 wwwwwwwwww`. -/
def formatWC (w : CommandWord) (k : Bool → ChannelWord → Instr) : Except DecodeError Instr :=
  if cmdReserved w ≠ 0#1 then .error .reservedBitSet
  else .ok (k (cmdFlag w == 1#1) (cmdWord w))

/-- Format I, `oooo 0 0 00000 iiiii`. -/
def formatI (w : CommandWord) (k : BitVec 5 → Instr) : Except DecodeError Instr :=
  if cmdFlag w ≠ 0#1 then .error .flagBitSet
  else if cmdReserved w ≠ 0#1 then .error .reservedBitSet
  else if w.extractLsb' 5 5 ≠ 0#5 then .error .operandBitsSet
  else .ok (k (cmdIdx w))

/-- The decoder: the opcode map of R73, with the reserved opcodes of R75 rejected by name. -/
def decode (w : CommandWord) : Except DecodeError Instr :=
  match (cmdOp w).toNat with
  | 0x1 => formatB w .encByte
  | 0x2 => formatN w .encEof
  | 0x3 => formatS w .encSetRd
  | 0x4 => formatN w .encGetRd
  | 0x5 => formatWC w .decSymbol
  | 0x6 => formatW w .decDisparityOf
  | 0x7 => formatW w .decNextDisparity
  | 0x8 => formatW w .decValidate
  | 0x9 => formatS w .decSetRd
  | 0xA => formatN w .decGetRd
  | 0xB => formatN w .rsReset
  | 0xC => formatB w .rsUpdate
  | 0xD => formatI w .rsRead
  | _ => .error .reservedOpcode

/-- The command word behind a table word of `nbits` bits: the bits above `nbits` are 0. Every row of the table has 16. -/
def tableCommandWord (nbits w : Nat) : CommandWord := BitVec.ofNat 16 (w % 2 ^ nbits)

/-- What the decoder reads from a word numbered as spec/opcode_table.json numbers it. -/
def decodeTableWord (nbits w : Nat) : Option Instr :=
  match decode (tableCommandWord nbits w) with
  | .ok i => some i
  | .error _ => none

/-! ### The opcode table itself (R73): match and mask of each row -/

/-- One row of the opcode map of R73. -/
structure OpcodeRow where
  mnemonic : String
  matchBits : CommandWord
  maskBits : CommandWord
deriving DecidableEq, Repr

/-- The thirteen rows of R73. -/
def opcodeRows : List OpcodeRow := [
  ⟨"ENC_BYTE", 0x1000#16, 0xFF00#16⟩,
  ⟨"ENC_EOF", 0x2000#16, 0xFFFF#16⟩,
  ⟨"ENC_SET_RD", 0x3000#16, 0xF7FF#16⟩,
  ⟨"ENC_GET_RD", 0x4000#16, 0xFFFF#16⟩,
  ⟨"DEC_SYMBOL", 0x5000#16, 0xF400#16⟩,
  ⟨"DEC_DISPARITY_OF", 0x6000#16, 0xFC00#16⟩,
  ⟨"DEC_NEXT_DISPARITY", 0x7000#16, 0xFC00#16⟩,
  ⟨"DEC_VALIDATE", 0x8000#16, 0xFC00#16⟩,
  ⟨"DEC_SET_RD", 0x9000#16, 0xF7FF#16⟩,
  ⟨"DEC_GET_RD", 0xA000#16, 0xFFFF#16⟩,
  ⟨"RS_RESET", 0xB000#16, 0xFFFF#16⟩,
  ⟨"RS_UPDATE", 0xC000#16, 0xFF00#16⟩,
  ⟨"RS_READ", 0xD000#16, 0xFFE0#16⟩]

/-- A word selects a row iff `cmd & mask == match` (R73). -/
def OpcodeRow.selects (row : OpcodeRow) (w : CommandWord) : Bool := w &&& row.maskBits == row.matchBits

/-- The rows a word selects. -/
def selectedRows (w : CommandWord) : List OpcodeRow := opcodeRows.filter fun row => row.selects w

/-- A command word is legal iff exactly one row matches it (R74). -/
def legalWord (w : CommandWord) : Bool := (selectedRows w).length == 1

/-- The mnemonic of a command, as the table spells it. -/
def Instr.mnemonic : Instr → String
  | .encByte _ => "ENC_BYTE"
  | .encEof => "ENC_EOF"
  | .encSetRd _ => "ENC_SET_RD"
  | .encGetRd => "ENC_GET_RD"
  | .decSymbol _ _ => "DEC_SYMBOL"
  | .decDisparityOf _ => "DEC_DISPARITY_OF"
  | .decNextDisparity _ => "DEC_NEXT_DISPARITY"
  | .decValidate _ => "DEC_VALIDATE"
  | .decSetRd _ => "DEC_SET_RD"
  | .decGetRd => "DEC_GET_RD"
  | .rsReset => "RS_RESET"
  | .rsUpdate _ => "RS_UPDATE"
  | .rsRead _ => "RS_READ"

/-! ### The encoder -/

/-- A command word from its fields, `op[15:12] f[11] 0[10] opd[9:0]` (R70). -/
def packCommand (op : BitVec 4) (f : BitVec 1) (opd : BitVec 10) : CommandWord := op ++ f ++ 0#1 ++ opd

/-- The command word of a command (R72, R73). -/
def encode : Instr → CommandWord
  | .encByte b => packCommand 0x1#4 0#1 (b.setWidth 10)
  | .encEof => packCommand 0x2#4 0#1 0#10
  | .encSetRd d => packCommand 0x3#4 d.bit 0#10
  | .encGetRd => packCommand 0x4#4 0#1 0#10
  | .decSymbol c w => packCommand 0x5#4 (BitVec.ofBool c) w
  | .decDisparityOf w => packCommand 0x6#4 0#1 w
  | .decNextDisparity w => packCommand 0x7#4 0#1 w
  | .decValidate w => packCommand 0x8#4 0#1 w
  | .decSetRd d => packCommand 0x9#4 d.bit 0#10
  | .decGetRd => packCommand 0xA#4 0#1 0#10
  | .rsReset => packCommand 0xB#4 0#1 0#10
  | .rsUpdate b => packCommand 0xC#4 0#1 (b.setWidth 10)
  | .rsRead i => packCommand 0xD#4 0#1 (i.setWidth 10)

/-! ### The assembler (R79) -/

/-- The command a line stands for, its numbers taken at the operand's width. -/
def Line.instr : Line → Instr
  | .encByte b => .encByte (BitVec.ofNat 8 b)
  | .encEof => .encEof
  | .encSetrd d => .encSetRd d
  | .encGetrd => .encGetRd
  | .decSym w => .decSymbol false (BitVec.ofNat 10 w)
  | .decSymC w => .decSymbol true (BitVec.ofNat 10 w)
  | .decDisp w => .decDisparityOf (BitVec.ofNat 10 w)
  | .decNext w => .decNextDisparity (BitVec.ofNat 10 w)
  | .decVal w => .decValidate (BitVec.ofNat 10 w)
  | .decSetrd d => .decSetRd d
  | .decGetrd => .decGetRd
  | .rsReset => .rsReset
  | .rsUpdate b => .rsUpdate (BitVec.ofNat 8 b)
  | .rsRead i => .rsRead (BitVec.ofNat 5 i)

/-- The command word of a line; none, an assembly error, where an operand is out of its range (R79). -/
def Line.assemble (l : Line) : Option CommandWord := if l.wellFormed then some (encode l.instr) else none

/-- How a disparity operand is written (R79). -/
def Disparity.text : Disparity → String
  | .neg => "neg"
  | .pos => "pos"

/-- How a line is written (R79): a lowercase mnemonic and at most one operand, numbers in decimal. -/
def Line.text : Line → String
  | .encByte b => "enc.byte " ++ toString b
  | .encEof => "enc.eof"
  | .encSetrd d => "enc.setrd " ++ d.text
  | .encGetrd => "enc.getrd"
  | .decSym w => "dec.sym " ++ toString w
  | .decSymC w => "dec.sym.c " ++ toString w
  | .decDisp w => "dec.disp " ++ toString w
  | .decNext w => "dec.next " ++ toString w
  | .decVal w => "dec.val " ++ toString w
  | .decSetrd d => "dec.setrd " ++ d.text
  | .decGetrd => "dec.getrd"
  | .rsReset => "rs.reset"
  | .rsUpdate b => "rs.update " ++ toString b
  | .rsRead i => "rs.read " ++ toString i

end Sys2Proof
end

