-- ==== Sys2Proof/Machine/State.lean ====
section
/-! DEFINITION. The state of GWCORE (spec/10_state.md R20 to R32) and the two host-side lists that let one deterministic step take the
host's events (spec/70_reset_and_hazards.md R250). -/

namespace Sys2Proof.Machine

/-- The four fault codes (spec/60_exceptions.md R213). A fault of the block is a NEXT state of the model: it is recorded in
`State.fault` and answered with a FAULT response (R219). -/
inductive FaultCode where
  /-- Code 1, R214. -/
  | illegalCommand
  /-- Code 2, R215. -/
  | encRdUnset
  /-- Code 3, R216. -/
  | decRdUnset
  /-- Code 4, R217. -/
  | rsUnset
deriving DecidableEq, Repr

/-- What the host can do to the block (R250): issue a command word, or reset it between two commands (R240). -/
inductive HostEvent where
  | command (w : CommandWord)
  | reset
deriving DecidableEq, Repr

/-- The parity register: exactly 32 bytes in every state (R28). -/
abbrev Parity := Vector Byte Config.parityBytes

/-- The block state `st` of R20 (the first four fields, "and nothing else") and the host side of the interface (the last two, which
R30 says are not state of the block; log entry 1). -/
structure State where
  /-- `st.enc_rd`, the line encoder's running disparity (R24). -/
  encRd : Option Disparity
  /-- `st.dec_rd`, the line decoder's running disparity (R26). -/
  decRd : Option Disparity
  /-- `st.parity`, the Reed–Solomon parity register (R27). -/
  parity : Option Parity
  /-- `st.fault`, the first fault since reset (R29). -/
  fault : Option FaultCode
  /-- The host's pending events, oldest first: each step takes the first. -/
  events : List HostEvent
  /-- The response words the host has received, oldest first: part of a run's observation (R250). -/
  responses : List ResponseWord
deriving DecidableEq, Repr

/-- The block after reset and at power-on (R32, R240), with no event pending and no response given. -/
def State.reset : State :=
  { encRd := none, decRd := none, parity := none, fault := none, events := [], responses := [] }

/-- Why `step` can stop the machine. The block itself never stops: every command completes, with a result or with a recorded fault
(R224, R210). -/
inductive Fault where
  /-- Raised by `step` alone, when the host has no event pending: the run has ended (R250). Safe: nothing is claimed of the block. -/
  | noHostEvent
deriving DecidableEq, Repr

/-- Why an instruction may have no meaning. No arm of `exec` uses it: all thirteen commands are modelled. -/
inductive Refusal where
  /-- Raised by an arm of `exec` for a command that has no meaning yet. Safe. -/
  | notModelled (mnemonic : String)
deriving DecidableEq, Repr

/-- How a command or a step ends. -/
abbrev Answer := Host.Outcome State Fault Refusal

end Sys2Proof.Machine
end

