-- ==== Sys2Proof/Machine/Flags.lean ====
section
/-! DEFINITION. The outcome of a command as the host sees it (spec/30_encoding.md R76 to R78). GWCORE has no flag register (spec/10_state.md
R23): what another machine would keep in flags is the `status` field and the `D` bit of the response word. -/

namespace Sys2Proof.Machine

/-- The statuses of R78; 5 and 6 are never produced. -/
inductive Status where
  | ok
  | notFound
  | rdError
  | sync
  | rdErrorSync
  | fault
deriving DecidableEq, Repr

/-- The status code (R78). -/
def Status.code : Status → BitVec 3
  | .ok => 0#3
  | .notFound => 1#3
  | .rdError => 2#3
  | .sync => 3#3
  | .rdErrorSync => 4#3
  | .fault => 7#3

/-- The fault code carried in `data` of a FAULT response (R213). -/
def FaultCode.code : FaultCode → BitVec 10
  | .illegalCommand => 1#10
  | .encRdUnset => 2#10
  | .decRdUnset => 3#10
  | .rsUnset => 4#10

/-- `s[2:0] ++ 0b00 ++ d ++ data[9:0]` (R77). -/
def packResponse (st : Status) (d : BitVec 1) (data : BitVec 10) : ResponseWord := st.code ++ 0#2 ++ d ++ data

/-- The FAULT response with code `c`, `respond(FAULT, 0, zext_10(c))` (R219, R220). -/
def faultResponse (c : FaultCode) : ResponseWord := packResponse .fault 0#1 c.code

/-- `status`, bits 15..13 of a response (R77). -/
def responseStatus (w : ResponseWord) : BitVec 3 := w.extractLsb' 13 3

/-- Bits 12..11 of a response, always 0 (R77). -/
def responseReserved (w : ResponseWord) : BitVec 2 := w.extractLsb' 11 2

/-- `D`, bit 10 of a response (R77). -/
def responseD (w : ResponseWord) : BitVec 1 := w.extractLsb' 10 1

/-- `data`, bits 9..0 of a response (R77). -/
def responseData (w : ResponseWord) : BitVec 10 := w.extractLsb' 0 10

end Sys2Proof.Machine
end

