-- ==== Sys2Proof/Machine/Rom.lean ====
section
/-! DEFINITION. The read-only tables of GWCORE (spec/20_memory.md R40 to R51). The parameters of spec/00_scope.md R7 drive them, as
spec/93_implementation_defined.md I1 to I4 asks: SYMBOL_TABLE is the image of R44, `ALPHA_TO` and `INDEX_OF` are computed from FIELD_POLY
and A0, `GENPOLY` (Sys2Proof/Machine/GeneratorRom.lean) from FCR and PRIM, so that replacing one parameter replaces every table that
depends on it (log entry 4, UNVERIFIED).
Beside them stand R42's construction of the symbol table and the images the spec prints; that they agree is proved in
Sys2Proof/Laws/Rom.lean or stated as an obligation. No command writes a table (R51), so none is state. -/

namespace Sys2Proof.Rom

/-- A table of 256 values as the spec prints it: 16 lines of 16, ascending. -/
abbrev Image (α : Type) := Vector (Vector α 16) 16

/-- The value at index `b` of a table: line `b / 16`, place `b % 16`. -/
def imageAt {α : Type} (t : Image α) (b : Byte) : α :=
  (t[b.toNat / 16]'(Nat.div_lt_of_lt_mul (show b.toNat < 16 * 16 from b.isLt)))[b.toNat % 16]'(Nat.mod_lt _ (by decide))

/-! ### The symbol ROM (R41, R44) -/

/-- A symbol table: an entry for each starting disparity and byte (R41). -/
abbrev SymbolTable := Disparity → Byte → Entry

/-- The channel word of an entry, `e[9:0]` (R41). -/
def entryWord (e : Entry) : ChannelWord := e.extractLsb' 0 10

/-- The disparity after an entry's word, `e[10]` (R41), NEG = 0 and POS = 1 (R11). -/
def entryNext (e : Entry) : Disparity := if e.extractLsb' 10 1 = 1#1 then .pos else .neg

/-- Row 0, starting disparity NEG (R44). -/
def rowNeg : Image Entry := #v[
  #v[0x274, 0x1D4, 0x2D4, 0x71B, 0x354, 0x69B, 0x59B, 0x78B, 0x394, 0x65B, 0x55B, 0x74B, 0x4DB, 0x6CB, 0x5CB, 0x174],
  #v[0x1B4, 0x63B, 0x53B, 0x72B, 0x4BB, 0x6AB, 0x5AB, 0x3A4, 0x334, 0x66B, 0x56B, 0x364, 0x4EB, 0x2E4, 0x1E4, 0x2B4],
  #v[0x679, 0x5D9, 0x6D9, 0x319, 0x759, 0x299, 0x199, 0x389, 0x799, 0x259, 0x159, 0x349, 0x0D9, 0x2C9, 0x1C9, 0x579],
  #v[0x5B9, 0x239, 0x139, 0x329, 0x0B9, 0x2A9, 0x1A9, 0x7A9, 0x739, 0x269, 0x169, 0x769, 0x0E9, 0x6E9, 0x5E9, 0x6B9],
  #v[0x675, 0x5D5, 0x6D5, 0x315, 0x755, 0x295, 0x195, 0x385, 0x795, 0x255, 0x155, 0x345, 0x0D5, 0x2C5, 0x1C5, 0x575],
  #v[0x5B5, 0x235, 0x135, 0x325, 0x0B5, 0x2A5, 0x1A5, 0x7A5, 0x735, 0x265, 0x165, 0x765, 0x0E5, 0x6E5, 0x5E5, 0x6B5],
  #v[0x673, 0x5D3, 0x6D3, 0x31C, 0x753, 0x29C, 0x19C, 0x38C, 0x793, 0x25C, 0x15C, 0x34C, 0x0DC, 0x2CC, 0x1CC, 0x573],
  #v[0x5B3, 0x23C, 0x13C, 0x32C, 0x0BC, 0x2AC, 0x1AC, 0x7A3, 0x733, 0x26C, 0x16C, 0x763, 0x0EC, 0x6E3, 0x5E3, 0x6B3],
  #v[0x272, 0x1D2, 0x2D2, 0x71D, 0x352, 0x69D, 0x59D, 0x78D, 0x392, 0x65D, 0x55D, 0x74D, 0x4DD, 0x6CD, 0x5CD, 0x172],
  #v[0x1B2, 0x63D, 0x53D, 0x72D, 0x4BD, 0x6AD, 0x5AD, 0x3A2, 0x332, 0x66D, 0x56D, 0x362, 0x4ED, 0x2E2, 0x1E2, 0x2B2],
  #v[0x67A, 0x5DA, 0x6DA, 0x31A, 0x75A, 0x29A, 0x19A, 0x38A, 0x79A, 0x25A, 0x15A, 0x34A, 0x0DA, 0x2CA, 0x1CA, 0x57A],
  #v[0x5BA, 0x23A, 0x13A, 0x32A, 0x0BA, 0x2AA, 0x1AA, 0x7AA, 0x73A, 0x26A, 0x16A, 0x76A, 0x0EA, 0x6EA, 0x5EA, 0x6BA],
  #v[0x676, 0x5D6, 0x6D6, 0x316, 0x756, 0x296, 0x196, 0x386, 0x796, 0x256, 0x156, 0x346, 0x0D6, 0x2C6, 0x1C6, 0x576],
  #v[0x5B6, 0x236, 0x136, 0x326, 0x0B6, 0x2A6, 0x1A6, 0x7A6, 0x736, 0x266, 0x166, 0x766, 0x0E6, 0x6E6, 0x5E6, 0x6B6],
  #v[0x271, 0x1D1, 0x2D1, 0x71E, 0x351, 0x69E, 0x59E, 0x78E, 0x391, 0x65E, 0x55E, 0x74E, 0x4DE, 0x6CE, 0x5CE, 0x171],
  #v[0x1B1, 0x637, 0x537, 0x72E, 0x4B7, 0x6AE, 0x5AE, 0x3A1, 0x331, 0x66E, 0x56E, 0x361, 0x4EE, 0x2E1, 0x1E1, 0x2B1]]

/-- Row 1, starting disparity POS (R44). -/
def rowPos : Image Entry := #v[
  #v[0x58B, 0x62B, 0x52B, 0x314, 0x4AB, 0x294, 0x194, 0x074, 0x46B, 0x254, 0x154, 0x344, 0x0D4, 0x2C4, 0x1C4, 0x68B],
  #v[0x64B, 0x234, 0x134, 0x324, 0x0B4, 0x2A4, 0x1A4, 0x45B, 0x4CB, 0x264, 0x164, 0x49B, 0x0E4, 0x51B, 0x61B, 0x54B],
  #v[0x189, 0x229, 0x129, 0x719, 0x0A9, 0x699, 0x599, 0x479, 0x069, 0x659, 0x559, 0x749, 0x4D9, 0x6C9, 0x5C9, 0x289],
  #v[0x249, 0x639, 0x539, 0x729, 0x4B9, 0x6A9, 0x5A9, 0x059, 0x0C9, 0x669, 0x569, 0x099, 0x4E9, 0x119, 0x219, 0x149],
  #v[0x185, 0x225, 0x125, 0x715, 0x0A5, 0x695, 0x595, 0x475, 0x065, 0x655, 0x555, 0x745, 0x4D5, 0x6C5, 0x5C5, 0x285],
  #v[0x245, 0x635, 0x535, 0x725, 0x4B5, 0x6A5, 0x5A5, 0x055, 0x0C5, 0x665, 0x565, 0x095, 0x4E5, 0x115, 0x215, 0x145],
  #v[0x18C, 0x22C, 0x12C, 0x713, 0x0AC, 0x693, 0x593, 0x473, 0x06C, 0x653, 0x553, 0x743, 0x4D3, 0x6C3, 0x5C3, 0x28C],
  #v[0x24C, 0x633, 0x533, 0x723, 0x4B3, 0x6A3, 0x5A3, 0x05C, 0x0CC, 0x663, 0x563, 0x09C, 0x4E3, 0x11C, 0x21C, 0x14C],
  #v[0x58D, 0x62D, 0x52D, 0x312, 0x4AD, 0x292, 0x192, 0x072, 0x46D, 0x252, 0x152, 0x342, 0x0D2, 0x2C2, 0x1C2, 0x68D],
  #v[0x64D, 0x232, 0x132, 0x322, 0x0B2, 0x2A2, 0x1A2, 0x45D, 0x4CD, 0x262, 0x162, 0x49D, 0x0E2, 0x51D, 0x61D, 0x54D],
  #v[0x18A, 0x22A, 0x12A, 0x71A, 0x0AA, 0x69A, 0x59A, 0x47A, 0x06A, 0x65A, 0x55A, 0x74A, 0x4DA, 0x6CA, 0x5CA, 0x28A],
  #v[0x24A, 0x63A, 0x53A, 0x72A, 0x4BA, 0x6AA, 0x5AA, 0x05A, 0x0CA, 0x66A, 0x56A, 0x09A, 0x4EA, 0x11A, 0x21A, 0x14A],
  #v[0x186, 0x226, 0x126, 0x716, 0x0A6, 0x696, 0x596, 0x476, 0x066, 0x656, 0x556, 0x746, 0x4D6, 0x6C6, 0x5C6, 0x286],
  #v[0x246, 0x636, 0x536, 0x726, 0x4B6, 0x6A6, 0x5A6, 0x056, 0x0C6, 0x666, 0x566, 0x096, 0x4E6, 0x116, 0x216, 0x146],
  #v[0x58E, 0x62E, 0x52E, 0x311, 0x4AE, 0x291, 0x191, 0x071, 0x46E, 0x251, 0x151, 0x348, 0x0D1, 0x2C8, 0x1C8, 0x68E],
  #v[0x64E, 0x231, 0x131, 0x321, 0x0B1, 0x2A1, 0x1A1, 0x45E, 0x4CE, 0x261, 0x161, 0x49E, 0x0E1, 0x51E, 0x61E, 0x54E]]

/-- SYMBOL_TABLE, the image of R44. -/
def SYMBOL_TABLE : SymbolTable
  | .neg => imageAt rowNeg
  | .pos => imageAt rowPos

/-- `SYM[r][b]` (R41). -/
def SYM (r : Disparity) (b : Byte) : Entry := SYMBOL_TABLE r b

/-- SYNC_WORD, the end-of-frame word at NEG disparity (R45). -/
def SYNC_WORD : ChannelWord := 0x0FA#10

/-! ### The construction of the symbol ROM (R42) -/

/-- How many bits of a value are 1. -/
def onesCount {n : Nat} (s : BitVec n) : Nat := (List.range n).countP fun i => s.getLsbD i

/-- `rd_after(d, s)` of R42. -/
def rdAfter {n : Nat} (d : Disparity) (s : BitVec n) : Disparity :=
  if 2 * onesCount s = n then d else if n < 2 * onesCount s then .pos else .neg

/-- The 5b/6b sub-blocks `SIX[x]`, for starting disparity NEG and POS (R42). -/
def SIX : List (BitVec 6 × BitVec 6) :=
  [(0b100111, 0b011000), (0b011101, 0b100010), (0b101101, 0b010010), (0b110001, 0b110001), (0b110101, 0b001010), (0b101001, 0b101001), (0b011001, 0b011001), (0b111000, 0b000111)] ++
  [(0b111001, 0b000110), (0b100101, 0b100101), (0b010101, 0b010101), (0b110100, 0b110100), (0b001101, 0b001101), (0b101100, 0b101100), (0b011100, 0b011100), (0b010111, 0b101000)] ++
  [(0b011011, 0b100100), (0b100011, 0b100011), (0b010011, 0b010011), (0b110010, 0b110010), (0b001011, 0b001011), (0b101010, 0b101010), (0b011010, 0b011010), (0b111010, 0b000101)] ++
  [(0b110011, 0b001100), (0b100110, 0b100110), (0b010110, 0b010110), (0b110110, 0b001001), (0b001110, 0b001110), (0b101110, 0b010001), (0b011110, 0b100001), (0b101011, 0b010100)]

/-- The 3b/4b sub-blocks `FOUR[y]`, for the disparity NEG and POS after the 6-bit sub-block (R42). -/
def FOUR : List (BitVec 4 × BitVec 4) :=
  [(0b1011, 0b0100), (0b1001, 0b1001), (0b0101, 0b0101), (0b1100, 0b0011), (0b1101, 0b0010), (0b1010, 0b1010), (0b0110, 0b0110), (0b1110, 0b0001)]

/-- The alternate 4-bit sub-block A7 (R42, R43). -/
def A7 : BitVec 4 × BitVec 4 := (0b0111, 0b1000)

/-- The one of a sub-block's two forms that a disparity selects. -/
def subBlock {n : Nat} (p : BitVec n × BitVec n) : Disparity → BitVec n
  | .neg => p.1
  | .pos => p.2

/-- Whether R42 takes the alternate A7 for `x` after the 6-bit sub-block has left disparity `r1`. -/
def takesA7 (x : Nat) : Disparity → Bool
  | .neg => x == 17 || x == 18 || x == 20
  | .pos => x == 11 || x == 13 || x == 14

/-- `SYM[r][b]` as R42 constructs it. -/
def constructedEntry (r : Disparity) (b : Byte) : Entry :=
  let x := (b.extractLsb' 0 5).toNat
  let y := (b.extractLsb' 5 3).toNat
  let s6 := subBlock (SIX.getD x (0, 0)) r
  let r1 := rdAfter r s6
  let s4 := if y == 7 && takesA7 x r1 then subBlock A7 r1 else subBlock (FOUR.getD y (0, 0)) r1
  let r2 := rdAfter r1 s4
  (match r2 with | .neg => 0#1 | .pos => 1#1) ++ s6 ++ s4

/-! ### The Galois-field ROMs (R47, R48) -/

/-- FIELD_POLY, x^8 + x^7 + x^2 + x + 1 (R47). -/
def FIELD_POLY : BitVec 9 := 0x187#9

/-- A0, the log-of-zero sentinel (R48). -/
def A0 : Byte := 255#8

/-- `ALPHA_TO[255]`, the entry after the last power (R47). -/
def ALPHA_TO_LAST : Byte := 0#8

/-- Multiplication by α = 0x02: `v << 1`, XORed with FIELD_POLY when bit 8 is set (R47). -/
def timesAlpha (v : Byte) : Byte :=
  let shifted := v.setWidth 9 <<< 1
  if shifted.getLsbD 8 then (shifted ^^^ FIELD_POLY).setWidth 8 else shifted.setWidth 8

/-- `α^i`, by R47's recurrence. -/
def alphaPower : Nat → Byte
  | 0 => 1#8
  | i + 1 => timesAlpha (alphaPower i)

/-- `n` powers of α in ascending order, the first of them `v`, by R47's recurrence. -/
def powersFrom : Nat → Byte → List Byte
  | 0, _ => []
  | n + 1, v => v :: powersFrom n (timesAlpha v)

/-- `α^0` to `α^254` (R47). -/
def alphaPowers : List Byte := powersFrom Config.codeLength 1#8

/-- `ALPHA_TO[i]`, the antilog ROM: `α^i` for `i` up to 254, and the entry at 255 (R47). -/
def ALPHA_TO (i : Byte) : Byte := alphaPowers.getD i.toNat ALPHA_TO_LAST

/-- `INDEX_OF[v]`, the log ROM: the sentinel for 0, and for any other value the exponent of α that gives it (R48; log entry 12). -/
def INDEX_OF (v : Byte) : Byte := if v = 0#8 then A0 else BitVec.ofNat 8 (alphaPowers.idxOf v)

/-- The image of `ALPHA_TO` that R47 prints; no command reads it. -/
def alphaImage : Image Byte := #v[
  #v[0x01, 0x02, 0x04, 0x08, 0x10, 0x20, 0x40, 0x80, 0x87, 0x89, 0x95, 0xAD, 0xDD, 0x3D, 0x7A, 0xF4],
  #v[0x6F, 0xDE, 0x3B, 0x76, 0xEC, 0x5F, 0xBE, 0xFB, 0x71, 0xE2, 0x43, 0x86, 0x8B, 0x91, 0xA5, 0xCD],
  #v[0x1D, 0x3A, 0x74, 0xE8, 0x57, 0xAE, 0xDB, 0x31, 0x62, 0xC4, 0x0F, 0x1E, 0x3C, 0x78, 0xF0, 0x67],
  #v[0xCE, 0x1B, 0x36, 0x6C, 0xD8, 0x37, 0x6E, 0xDC, 0x3F, 0x7E, 0xFC, 0x7F, 0xFE, 0x7B, 0xF6, 0x6B],
  #v[0xD6, 0x2B, 0x56, 0xAC, 0xDF, 0x39, 0x72, 0xE4, 0x4F, 0x9E, 0xBB, 0xF1, 0x65, 0xCA, 0x13, 0x26],
  #v[0x4C, 0x98, 0xB7, 0xE9, 0x55, 0xAA, 0xD3, 0x21, 0x42, 0x84, 0x8F, 0x99, 0xB5, 0xED, 0x5D, 0xBA],
  #v[0xF3, 0x61, 0xC2, 0x03, 0x06, 0x0C, 0x18, 0x30, 0x60, 0xC0, 0x07, 0x0E, 0x1C, 0x38, 0x70, 0xE0],
  #v[0x47, 0x8E, 0x9B, 0xB1, 0xE5, 0x4D, 0x9A, 0xB3, 0xE1, 0x45, 0x8A, 0x93, 0xA1, 0xC5, 0x0D, 0x1A],
  #v[0x34, 0x68, 0xD0, 0x27, 0x4E, 0x9C, 0xBF, 0xF9, 0x75, 0xEA, 0x53, 0xA6, 0xCB, 0x11, 0x22, 0x44],
  #v[0x88, 0x97, 0xA9, 0xD5, 0x2D, 0x5A, 0xB4, 0xEF, 0x59, 0xB2, 0xE3, 0x41, 0x82, 0x83, 0x81, 0x85],
  #v[0x8D, 0x9D, 0xBD, 0xFD, 0x7D, 0xFA, 0x73, 0xE6, 0x4B, 0x96, 0xAB, 0xD1, 0x25, 0x4A, 0x94, 0xAF],
  #v[0xD9, 0x35, 0x6A, 0xD4, 0x2F, 0x5E, 0xBC, 0xFF, 0x79, 0xF2, 0x63, 0xC6, 0x0B, 0x16, 0x2C, 0x58],
  #v[0xB0, 0xE7, 0x49, 0x92, 0xA3, 0xC1, 0x05, 0x0A, 0x14, 0x28, 0x50, 0xA0, 0xC7, 0x09, 0x12, 0x24],
  #v[0x48, 0x90, 0xA7, 0xC9, 0x15, 0x2A, 0x54, 0xA8, 0xD7, 0x29, 0x52, 0xA4, 0xCF, 0x19, 0x32, 0x64],
  #v[0xC8, 0x17, 0x2E, 0x5C, 0xB8, 0xF7, 0x69, 0xD2, 0x23, 0x46, 0x8C, 0x9F, 0xB9, 0xF5, 0x6D, 0xDA],
  #v[0x33, 0x66, 0xCC, 0x1F, 0x3E, 0x7C, 0xF8, 0x77, 0xEE, 0x5B, 0xB6, 0xEB, 0x51, 0xA2, 0xC3, 0x00]]

/-- The image of `INDEX_OF` that R48 prints; no command reads it. -/
def indexImage : Image Byte := #v[
  #v[0xFF, 0x00, 0x01, 0x63, 0x02, 0xC6, 0x64, 0x6A, 0x03, 0xCD, 0xC7, 0xBC, 0x65, 0x7E, 0x6B, 0x2A],
  #v[0x04, 0x8D, 0xCE, 0x4E, 0xC8, 0xD4, 0xBD, 0xE1, 0x66, 0xDD, 0x7F, 0x31, 0x6C, 0x20, 0x2B, 0xF3],
  #v[0x05, 0x57, 0x8E, 0xE8, 0xCF, 0xAC, 0x4F, 0x83, 0xC9, 0xD9, 0xD5, 0x41, 0xBE, 0x94, 0xE2, 0xB4],
  #v[0x67, 0x27, 0xDE, 0xF0, 0x80, 0xB1, 0x32, 0x35, 0x6D, 0x45, 0x21, 0x12, 0x2C, 0x0D, 0xF4, 0x38],
  #v[0x06, 0x9B, 0x58, 0x1A, 0x8F, 0x79, 0xE9, 0x70, 0xD0, 0xC2, 0xAD, 0xA8, 0x50, 0x75, 0x84, 0x48],
  #v[0xCA, 0xFC, 0xDA, 0x8A, 0xD6, 0x54, 0x42, 0x24, 0xBF, 0x98, 0x95, 0xF9, 0xE3, 0x5E, 0xB5, 0x15],
  #v[0x68, 0x61, 0x28, 0xBA, 0xDF, 0x4C, 0xF1, 0x2F, 0x81, 0xE6, 0xB2, 0x3F, 0x33, 0xEE, 0x36, 0x10],
  #v[0x6E, 0x18, 0x46, 0xA6, 0x22, 0x88, 0x13, 0xF7, 0x2D, 0xB8, 0x0E, 0x3D, 0xF5, 0xA4, 0x39, 0x3B],
  #v[0x07, 0x9E, 0x9C, 0x9D, 0x59, 0x9F, 0x1B, 0x08, 0x90, 0x09, 0x7A, 0x1C, 0xEA, 0xA0, 0x71, 0x5A],
  #v[0xD1, 0x1D, 0xC3, 0x7B, 0xAE, 0x0A, 0xA9, 0x91, 0x51, 0x5B, 0x76, 0x72, 0x85, 0xA1, 0x49, 0xEB],
  #v[0xCB, 0x7C, 0xFD, 0xC4, 0xDB, 0x1E, 0x8B, 0xD2, 0xD7, 0x92, 0x55, 0xAA, 0x43, 0x0B, 0x25, 0xAF],
  #v[0xC0, 0x73, 0x99, 0x77, 0x96, 0x5C, 0xFA, 0x52, 0xE4, 0xEC, 0x5F, 0x4A, 0xB6, 0xA2, 0x16, 0x86],
  #v[0x69, 0xC5, 0x62, 0xFE, 0x29, 0x7D, 0xBB, 0xCC, 0xE0, 0xD3, 0x4D, 0x8C, 0xF2, 0x1F, 0x30, 0xDC],
  #v[0x82, 0xAB, 0xE7, 0x56, 0xB3, 0x93, 0x40, 0xD8, 0x34, 0xB0, 0xEF, 0x26, 0x37, 0x0C, 0x11, 0x44],
  #v[0x6F, 0x78, 0x19, 0x9A, 0x47, 0x74, 0xA7, 0xC1, 0x23, 0x53, 0x89, 0xFB, 0x14, 0x5D, 0xF8, 0x97],
  #v[0x2E, 0x4B, 0xB9, 0x60, 0x0F, 0xED, 0x3E, 0xE5, 0xF6, 0x87, 0xA5, 0x17, 0x3A, 0xA3, 0x3C, 0xB7]]

end Sys2Proof.Rom
end

