-- ==== Sys2Proof/Machine/Ops.lean ====
section
/-! DEFINITION. The operations every command is made of: writing a field, responding, taking a fault and answering from the faulted
block (spec/60_exceptions.md R218 to R220), the reset event (spec/70_reset_and_hazards.md R240), and the search of the symbol ROM
(spec/41_line_decoder.md R130). The block has no memory, so there are no memory operations (spec/20_memory.md R40). -/

namespace Sys2Proof.Machine

/-! ### Writing one field (R10: `st.f <- v`) -/

/-- `st.enc_rd <- some d`. -/
def State.setEncRd (s : State) (d : Disparity) : State := { s with encRd := some d }

/-- `st.dec_rd <- some d`. -/
def State.setDecRd (s : State) (d : Disparity) : State := { s with decRd := some d }

/-- `st.parity <- some p`. -/
def State.setParity (s : State) (p : Parity) : State := { s with parity := some p }

/-- `st.fault <- some c`. -/
def State.setFault (s : State) (c : FaultCode) : State := { s with fault := some c }

/-- The host receives a response word (R76). -/
def State.answered (s : State) (w : ResponseWord) : State := { s with responses := s.responses ++ [w] }

/-- `respond(s, d, data)` (R10, R77): the command ends with this response. -/
def respond (st : Status) (d : BitVec 1) (data : BitVec 10) (s : State) : Answer :=
  .next (s.answered (packResponse st d data))

/-- What a program does after an answer: go on from a next state, stop where the machine stopped. -/
def andThen {σ τ : Type} (a : Host.Outcome σ Fault Refusal) (k : σ → Host.Outcome τ Fault Refusal) :
    Host.Outcome τ Fault Refusal :=
  match a with
  | .next s => k s
  | .fault r => .fault r
  | .refused r => .refused r

/-! ### Faults: taking one, the faulted block, and the only way out (R218 to R220, R240) -/

/-- Fault entry, `raise Fault(c)`: `st.fault <- some c`, the FAULT response with the code, and nothing else (R219). -/
def takeFault (c : FaultCode) (s : State) : Answer := .next ((s.setFault c).answered (faultResponse c))

/-- The faulted block: nothing changes and the answer is FAULT with the first code (R220). -/
def answerFaulted (c : FaultCode) (s : State) : Answer := .next (s.answered (faultResponse c))

/-- The fault gate, the first check of every command (R218 step 1). -/
def gate (s : State) (command : State → Answer) : Answer :=
  match s.fault with
  | some c => answerFaulted c s
  | none => command s

/-- The reset event (R240): every field of `st` to its reset value (R32), no response; what the host has pending and has received
stays (log entry 5). -/
def hostReset (s : State) : State := { s with encRd := none, decRd := none, parity := none, fault := none }

/-! ### The search primitive (R130) -/

/-- The bytes 0 to 255, in ascending order. -/
def allBytes : List Byte := (List.range 256).map fun b => BitVec.ofNat 8 b

/-- `FindRow(r, w)` on the symbol table `T`: the first byte of the row whose entry carries the word, and that entry's next disparity. -/
def romFindRow (T : Rom.SymbolTable) (r : Disparity) (w : ChannelWord) : Option (Byte × Disparity) :=
  (allBytes.find? fun b => Rom.entryWord (T r b) == w).map fun b => (b, Rom.entryNext (T r b))

/-- `Find(w)` on the symbol table `T`: row NEG first, then row POS (R130, R131). -/
def romFind (T : Rom.SymbolTable) (w : ChannelWord) : Option (Disparity × Byte × Disparity) :=
  match romFindRow T .neg w with
  | some (b, n) => some (.neg, b, n)
  | none =>
    match romFindRow T .pos w with
    | some (b, n) => some (.pos, b, n)
    | none => none

end Sys2Proof.Machine
end

