-- ==== Sys2Proof/Machine/Operands.lean ====
section
/-! DEFINITION. How commands get and shape their operands: the complement and the sync word (spec/00_scope.md R11, R12,
spec/20_memory.md R45), a byte in the 10-bit data field (R77), and reading a field that may be unset (spec/60_exceptions.md R215 to
R217). The operands inside the command word are taken out by the decoder (spec/30_encoding.md R71). -/

namespace Sys2Proof.Machine

/-- `flip(d)`, the other disparity (R11). -/
def flipRd : Disparity → Disparity
  | .neg => .pos
  | .pos => .neg

/-- `comp10(w) = ~w & 0x3FF` (R12). -/
def comp10 (w : ChannelWord) : ChannelWord := ~~~w &&& 0x3FF#10

/-- The end-of-frame word at disparity `r`: SYNC_WORD at NEG, its complement at POS (R45, R102). -/
def syncWordAt : Disparity → ChannelWord
  | .neg => Rom.SYNC_WORD
  | .pos => comp10 Rom.SYNC_WORD

/-- `zext_10(b)` of a byte. -/
def zext10 (b : Byte) : BitVec 10 := b.setWidth 10

/-- Reading `st.enc_rd`: the fault ENC_RD_UNSET where it is unset (R215). -/
def readEncRd (s : State) (k : Disparity → Answer) : Answer :=
  match s.encRd with
  | some r => k r
  | none => takeFault .encRdUnset s

/-- Reading `st.dec_rd`: the fault DEC_RD_UNSET where it is unset (R216). -/
def readDecRd (s : State) (k : Disparity → Answer) : Answer :=
  match s.decRd with
  | some r => k r
  | none => takeFault .decRdUnset s

/-- Reading `st.parity`: the fault RS_UNSET where it is unset (R217). -/
def readParity (s : State) (k : Parity → Answer) : Answer :=
  match s.parity with
  | some p => k p
  | none => takeFault .rsUnset s

end Sys2Proof.Machine
end

