-- ==== Sys2Proof/Machine/LineDecoder.lean ====
section
/-! DEFINITION. The line decoder commands (spec/41_line_decoder.md R130 to R138). -/

namespace Sys2Proof.Machine

/-- DEC_SYMBOL (R132): with `c` the complement is searched, and only it (spec/90_conflicts.md C7). -/
def execDecSymbol (c : Bool) (word : ChannelWord) (s : State) : Answer :=
  gate s fun s =>
    match romFind Rom.SYMBOL_TABLE (if c then comp10 word else word) with
    | some (_, b, _) => respond .ok 0#1 (zext10 b) s
    | none => respond .notFound 0#1 0#10 s

/-- DEC_DISPARITY_OF (R133): the row of the first match. -/
def execDecDisparityOf (word : ChannelWord) (s : State) : Answer :=
  gate s fun s =>
    match romFind Rom.SYMBOL_TABLE word with
    | some (r, _, _) => respond .ok r.bit 0#10 s
    | none => respond .notFound 0#1 0#10 s

/-- DEC_NEXT_DISPARITY (R134): the disparity the first match carries. -/
def execDecNextDisparity (word : ChannelWord) (s : State) : Answer :=
  gate s fun s =>
    match romFind Rom.SYMBOL_TABLE word with
    | some (_, _, n) => respond .ok n.bit 0#10 s
    | none => respond .notFound 0#1 0#10 s

/-- DEC_VALIDATE (R135): the current row, the other row, the current sync word, the other sync word, a miss. -/
def execDecValidate (word : ChannelWord) (s : State) : Answer :=
  gate s fun s => readDecRd s fun r =>
    match romFindRow Rom.SYMBOL_TABLE r word with
    | some (b, n) => respond .ok n.bit (zext10 b) (s.setDecRd n)
    | none =>
      match romFindRow Rom.SYMBOL_TABLE (flipRd r) word with
      | some (b, n) => respond .rdError n.bit (zext10 b) (s.setDecRd n)
      | none =>
        if word = syncWordAt r then respond .sync (flipRd r).bit word (s.setDecRd (flipRd r))
        else if word = syncWordAt (flipRd r) then respond .rdErrorSync r.bit word (s.setDecRd r)
        else respond .notFound 0#1 0#10 s

/-- DEC_SET_RD (R136). -/
def execDecSetRd (d : Disparity) (s : State) : Answer :=
  gate s fun s => respond .ok d.bit 0#10 (s.setDecRd d)

/-- DEC_GET_RD (R137). -/
def execDecGetRd (s : State) : Answer :=
  gate s fun s => readDecRd s fun r => respond .ok r.bit 0#10 s

end Sys2Proof.Machine
end

