-- ==== Sys2Proof/Machine/LineEncoder.lean ====
section
/-! DEFINITION. The line encoder commands (spec/40_line_encoder.md R100 to R104). -/

namespace Sys2Proof.Machine

/-- ENC_BYTE (R101): the word is the table entry's, and so is the new disparity. -/
def execEncByte (byte : Byte) (s : State) : Answer :=
  gate s fun s => readEncRd s fun r =>
    let e := Rom.SYM r byte
    respond .ok (Rom.entryNext e).bit (Rom.entryWord e) (s.setEncRd (Rom.entryNext e))

/-- ENC_EOF (R102): the sync word of the current disparity, which always toggles it. -/
def execEncEof (s : State) : Answer :=
  gate s fun s => readEncRd s fun r =>
    respond .ok (flipRd r).bit (syncWordAt r) (s.setEncRd (flipRd r))

/-- ENC_SET_RD (R103). -/
def execEncSetRd (d : Disparity) (s : State) : Answer :=
  gate s fun s => respond .ok d.bit 0#10 (s.setEncRd d)

/-- ENC_GET_RD (R104). -/
def execEncGetRd (s : State) : Answer :=
  gate s fun s => readEncRd s fun r => respond .ok r.bit 0#10 s

end Sys2Proof.Machine
end

