-- ==== Sys2Proof/Machine/Gf.lean ====
section
/-! DEFINITION. GF(256) arithmetic (spec/42_reed_solomon.md R170 to R173). -/

namespace Sys2Proof.Machine

/-- Field addition, exclusive or (R170). -/
def gadd (a b : Byte) : Byte := a ^^^ b

/-- The reduction of a log sum, `x mod 255` (R172; spec/90_conflicts.md C1 makes the value normative). -/
def mod255 (x : Nat) : Nat := x % 255

/-- R172's terminating fold, with fuel for its loop; `x` units of fuel are always enough. -/
def mod255Fold : Nat → Nat → Nat
  | 0, x => x
  | fuel + 1, x => if 255 ≤ x then mod255Fold fuel (((x - 255) >>> 8) + ((x - 255) &&& 255)) else x

/-- The antilog of a log sum, `ALPHA_TO[mod255(x)]`. -/
def antilog (x : Nat) : Byte := Rom.ALPHA_TO (BitVec.ofNat 8 (mod255 x))

/-- Field multiplication (R171): zero by the short-circuit, never by the sentinel. -/
def gmul (a b : Byte) : Byte :=
  if a = 0#8 ∨ b = 0#8 then 0#8 else antilog ((Rom.INDEX_OF a).toNat + (Rom.INDEX_OF b).toNat)

/-- `α^i · v`, by R47's step. -/
def timesAlphaPower (v : Byte) : Nat → Byte
  | 0 => v
  | i + 1 => Rom.timesAlpha (timesAlphaPower v i)

/-- The product of two field elements as polynomials in α reduced by FIELD_POLY, without any table: the sum of `α^i · b` over the bits
`i` that are set in `a`. -/
def polynomialProduct (a b : Byte) : Byte :=
  (List.range 8).foldl (fun acc i => if a.getLsbD i then gadd acc (timesAlphaPower b i) else acc) 0#8

end Sys2Proof.Machine
end

