-- ==== Sys2Proof/Machine/GeneratorRom.lean ====
section
/-! DEFINITION. The generator ROM of the Reed–Solomon code (spec/20_memory.md R49, R50), computed from FCR and PRIM
(spec/93_implementation_defined.md I4; log entry 4, UNVERIFIED), and beside it the image the spec prints. -/

namespace Sys2Proof

/-- FCR, the first consecutive root's exponent (R49). -/
def Rom.FCR : Nat := 112

/-- PRIM, the spacing of the roots' exponents (R49). -/
def Rom.PRIM : Nat := 11

/-- The exponent of the `i`-th root, `11·(112 + i) mod 255` (R49). -/
def Machine.rootExponent (i : Nat) : Nat := (Rom.PRIM * (Rom.FCR + i)) % Config.codeLength

/-- The `i`-th root of the generator, `α^(11·(112 + i) mod 255)` (R49). -/
def Machine.codeRoot (i : Nat) : Byte := Rom.ALPHA_TO (BitVec.ofNat 8 (Machine.rootExponent i))

/-- `(x - r)·g(x)`, the coefficient of `x^0` first: `x·g + r·g`, since minus is plus (R170). -/
def Rom.timesRootFactor (g : List Byte) (r : Byte) : List Byte :=
  List.zipWith Machine.gadd (0#8 :: g) (g.map (Machine.polynomialProduct r) ++ [0#8])

/-- The coefficients `g_0` to `g_32` of the generator: one root's factor after the other (R49). -/
def Rom.generatorCoefficients : List Byte :=
  ((List.range Config.parityBytes).map Machine.codeRoot).foldl Rom.timesRootFactor [1#8]

/-- `GENPOLY[j]`, the log form of the generator's coefficients `g_0` to `g_16` (R49). -/
def Rom.GENPOLY (j : Fin Config.halfGeneratorLength) : Byte := Rom.INDEX_OF (Rom.generatorCoefficients.getD j.val 0#8)

/-- The image of `GENPOLY` that R49 prints; no command reads it. -/
def Rom.generatorImage : Vector Byte Config.halfGeneratorLength := #v[0, 249, 59, 66, 4, 43, 126, 251, 97, 30, 3, 213, 50, 66, 170, 5, 24]

/-- `G[k]`, the log form of the full generator's coefficient of `x^k`, `k` from 0 to 32, by the palindrome `G[k] = G[32 - k]` (R50). -/
def Rom.fullGenerator (k : Nat) : Byte :=
  if h : k ≤ 16 then Rom.GENPOLY ⟨k, Nat.lt_succ_of_le h⟩ else Rom.GENPOLY ⟨min (32 - k) 16, Nat.lt_succ_of_le (Nat.min_le_right _ _)⟩

end Sys2Proof
end

