-- ==== Sys2Proof/Machine/ReedSolomon.lean ====
section
/-! DEFINITION. The Reed–Solomon parity accumulator commands (spec/42_reed_solomon.md R174 to R176). -/

namespace Sys2Proof.Machine

/-- The all-zero register `[0x00] * 32` (R174). -/
def zeroParity : Parity := Vector.replicate Config.parityBytes 0#8

/-- `p[k] <- p[k] ^ t`, for `k` from 0 to 31. -/
def xorAt (p : Parity) (k : Nat) (t : Byte) : Parity :=
  if h : k < Config.parityBytes then p.set k (p[k] ^^^ t) else p

/-- `ALPHA_TO[mod255(fb + GENPOLY[j])]`, the term of coefficient `j` for the feedback `fb` (R175). -/
def feedbackTerm (fb : Byte) (j : Fin Config.halfGeneratorLength) : Byte :=
  antilog (fb.toNat + (Rom.GENPOLY j).toNat)

/-- One pass of R175's loop: the term of `j` into `p[j]` and `p[32 - j]`. -/
def xorPair (fb : Byte) (p : Parity) (j : Fin Config.halfGeneratorLength) : Parity :=
  xorAt (xorAt p j.val (feedbackTerm fb j)) (32 - j.val) (feedbackTerm fb j)

/-- The loop's indices, `1 .. 15` (R175; spec/90_conflicts.md C2). -/
def pairIndices : List (Fin Config.halfGeneratorLength) := [1, 2, 3, 4, 5, 6, 7, 8, 9, 10, 11, 12, 13, 14, 15]

/-- The XORs of R175 for a feedback that is not the sentinel: the pairs, then the middle coefficient once. -/
def xorFeedback (fb : Byte) (p : Parity) : Parity :=
  xorAt (pairIndices.foldl (xorPair fb) p) 16 (feedbackTerm fb 16)

/-- The shift of R175: `q[k] = p[k + 1]`, `p[0]` discarded, `last` in `q[31]`. -/
def shiftIn (p : Parity) (last : Byte) : Parity :=
  Vector.ofFn fun k => if h : k.val + 1 < Config.parityBytes then p[k.val + 1] else last

/-- The register after one data byte (R175). -/
def rsStep (p : Parity) (byte : Byte) : Parity :=
  let fb := Rom.INDEX_OF (byte ^^^ p[0])
  if fb ≠ Rom.A0 then shiftIn (xorFeedback fb p) (Rom.ALPHA_TO fb) else shiftIn p 0#8

/-- RS_RESET (R174). -/
def execRsReset (s : State) : Answer :=
  gate s fun s => respond .ok 0#1 0#10 (s.setParity zeroParity)

/-- RS_UPDATE (R175). -/
def execRsUpdate (byte : Byte) (s : State) : Answer :=
  gate s fun s => readParity s fun p => respond .ok 0#1 0#10 (s.setParity (rsStep p byte))

/-- RS_READ (R176). -/
def execRsRead (idx : BitVec 5) (s : State) : Answer :=
  gate s fun s => readParity s fun p => respond .ok 0#1 (zext10 (p[idx.toNat]'idx.isLt)) s

end Sys2Proof.Machine
end

