-- ==== Sys2Proof/Machine/Dispatch.lean ====
section
/-! DEFINITION. One arm per command: each calls its meaning. -/

namespace Sys2Proof.Machine

def exec (i : Instr) (s : State) : Host.Outcome State Fault Refusal :=
  match i with
  -- the line encoder (spec/40_line_encoder.md)
  | .encByte byte => Sys2Proof.Machine.execEncByte byte s
  | .encEof => Sys2Proof.Machine.execEncEof s
  | .encSetRd d => Sys2Proof.Machine.execEncSetRd d s
  | .encGetRd => Sys2Proof.Machine.execEncGetRd s
  -- the line decoder (spec/41_line_decoder.md)
  | .decSymbol c word => Sys2Proof.Machine.execDecSymbol c word s
  | .decDisparityOf word => Sys2Proof.Machine.execDecDisparityOf word s
  | .decNextDisparity word => Sys2Proof.Machine.execDecNextDisparity word s
  | .decValidate word => Sys2Proof.Machine.execDecValidate word s
  | .decSetRd d => Sys2Proof.Machine.execDecSetRd d s
  | .decGetRd => Sys2Proof.Machine.execDecGetRd s
  -- the parity accumulator (spec/42_reed_solomon.md)
  | .rsReset => Sys2Proof.Machine.execRsReset s
  | .rsUpdate byte => Sys2Proof.Machine.execRsUpdate byte s
  | .rsRead idx => Sys2Proof.Machine.execRsRead idx s

end Sys2Proof.Machine
end

