-- ==== Sys2Proof/Machine/Issue.lean ====
section
/-! DEFINITION. What one host event does to the block: a command word is checked and executed (spec/60_exceptions.md R218), a reset sets
the reset state (spec/70_reset_and_hazards.md R240). -/

namespace Sys2Proof.Machine

/-- A word that is no command: the fault gate, then ILLEGAL_COMMAND (R218 steps 1 and 2, R214). -/
def execIllegal (s : State) : Answer := gate s fun s => takeFault .illegalCommand s

/-- Executing one command word, by the order of checks of R218: every meaning passes the fault gate first, and so does an illegal
word, so testing legality before calling them changes no outcome (log entry 7). -/
def issue (w : CommandWord) (s : State) : Answer :=
  match decode w with
  | .ok i => exec i s
  | .error _ => execIllegal s

/-- One host event (R250). -/
def handleEvent (e : HostEvent) (s : State) : Answer :=
  match e with
  | .command w => issue w s
  | .reset => .next (hostReset s)

/-- The host's next event is taken from the pending list before it is handled; with none pending the run has ended (log entries 1, 3). -/
def takeEvent (s : State) : Answer :=
  match s.events with
  | [] => .fault .noHostEvent
  | e :: rest => handleEvent e { s with events := rest }

/-- The host has `e` issued before everything that is pending. -/
def State.withNextEvent (s : State) (e : HostEvent) : State := { s with events := e :: s.events }

end Sys2Proof.Machine
end

