-- ==== Sys2Proof/Machine/Step.lean ====
section
/-! DEFINITION. One step of GWCORE is one host event (spec/70_reset_and_hazards.md R249, R250). -/

namespace Sys2Proof.Machine

/-- One step: the host's next event. -/
def step (s : State) : Host.Outcome State Fault Refusal := takeEvent s

/-- The state in which the host's next event is the command word `w` of `nbits` bits, numbered as the opcode table numbers it: GWCORE
fetches nothing (R22), a program is what the host issues (log entry 2). -/
def State.withFetchWord (s : State) (nbits w : Nat) : State := s.withNextEvent (.command (tableCommandWord nbits w))

end Sys2Proof.Machine
end

