-- ==== Sys2Proof/Machine/Code.lean ====
section
/-! DEFINITION. Polynomials over GF(256) and the generator of the (255,223) code (spec/20_memory.md R49, R50, spec/42_reed_solomon.md
R177): what the parity accumulator's results are claimed to be. The block itself forms no product (R171). -/

namespace Sys2Proof.Machine

/-- A polynomial over GF(256), the coefficient of `x^0` first. -/
abbrev Poly := List Byte

/-- Sum of polynomials. -/
def polyAdd : Poly → Poly → Poly
  | [], q => q
  | p, [] => p
  | a :: p, b :: q => gadd a b :: polyAdd p q

/-- Product of polynomials: `(a + x·p)·q = a·q + x·(p·q)`. -/
def polyMul : Poly → Poly → Poly
  | [], _ => []
  | a :: p, q => polyAdd (q.map (gmul a)) (0#8 :: polyMul p q)

/-- Value of a polynomial at `x`. -/
def polyEval : Poly → Byte → Byte
  | [], _ => 0#8
  | a :: p, x => gadd a (gmul x (polyEval p x))

/-- The generator as R49 defines it, the product of `x - α^(11·(112 + i) mod 255)` for `i` from 0 to 31, with the log and antilog
product of R171. -/
def generatorOfRoots : Poly := (List.range 32).foldl (fun g i => polyMul [codeRoot i, 1#8] g) [1#8]

/-- The generator by its 33 coefficients in log form (R50). -/
def generator : Poly := (List.range 33).map fun k => Rom.ALPHA_TO (Rom.fullGenerator k)

end Sys2Proof.Machine
end

