-- ==== Sys2Proof/Machine/Protocol.lean ====
section
/-! DEFINITION. The host's side of the protocol (spec/30_encoding.md R80, spec/70_reset_and_hazards.md R242 to R245): the
pseudo-instructions and the frame of R243 as programs over the block, each command issued as its command word. The block checks none of
it (R246). -/

namespace Sys2Proof.Machine

/-- What a sending host holds: the block, and the channel words it has transmitted, first to last (each bit 9 first, R52). -/
structure Transmission where
  block : State
  words : List ChannelWord
deriving DecidableEq, Repr

/-- How a host program ends. -/
abbrev TxAnswer := Host.Outcome Transmission Fault Refusal

/-- The host issues a command (as its command word). -/
def hostIssue (i : Instr) (s : State) : Answer := issue (encode i) s

/-- The host issues commands one after the other (R59). -/
def hostIssueAll : List Instr → State → Answer
  | [], s => .next s
  | i :: is, s => andThen (hostIssue i s) (hostIssueAll is)

/-- `RESP.data`, the data field of the response to the previous command (R80). -/
def lastData (s : State) : BitVec 10 := responseData (s.responses.getLast?.getD 0#16)

/-- A command whose response is not transmitted. -/
def plain (i : Instr) (x : Transmission) : TxAnswer :=
  andThen (hostIssue i x.block) fun t => .next { x with block := t }

/-- An encoder command whose returned word the host transmits (R243). -/
def send (i : Instr) (x : Transmission) : TxAnswer :=
  andThen (hostIssue i x.block) fun t => .next { block := t, words := x.words ++ [lastData t] }

/-- `rs.read i ; enc.byte RESP.data` (R80). -/
def sendParityByte (i : BitVec 5) (x : Transmission) : TxAnswer :=
  andThen (plain (.rsRead i) x) fun y => send (.encByte ((lastData y.block).setWidth 8)) y

/-- A host program, one action after the other. -/
def inOrder {α : Type} (act : α → Transmission → TxAnswer) : List α → Transmission → TxAnswer
  | [], x => .next x
  | a :: rest, x => andThen (act a x) (inOrder act rest)

/-- The parity indices 0 to 31, in transmission order (R53). -/
def parityIndices : List (BitVec 5) := (List.range Config.parityBytes).map fun i => BitVec.ofNat 5 i

/-- `tx.parity` (R80). -/
def sendParity (x : Transmission) : TxAnswer := inOrder sendParityByte parityIndices x

/-- The expansions of R80. -/
def runPseudo : Pseudo → Transmission → TxAnswer
  | .tx b, x => andThen (plain (.rsUpdate b) x) (send (.encByte b))
  | .txParity, x => sendParity x
  | .txEnd, x => andThen (sendParity x) (send .encEof)
  | .frameStart, x => plain .rsReset x

/-- The pseudo-instructions of one frame of data bytes (R243): `frame.start`, a `tx` for each byte, `tx.end`. -/
def framePseudos (data : List Byte) : List Pseudo := .frameStart :: (data.map Pseudo.tx ++ [.txEnd])

/-- Sending one frame (R243). -/
def sendFrame (data : List Byte) (x : Transmission) : TxAnswer := inOrder runPseudo (framePseudos data) x

/-- The commands that initialise the block (R242); the disparities are the host's choice. -/
def initCommands (enc dec : Disparity) : List Instr := [.encSetRd enc, .decSetRd dec, .rsReset]

/-- The frame abort (R244): RS_RESET and, if the host wants a known disparity, ENC_SET_RD. -/
def abortCommands (wanted : Option Disparity) : List Instr :=
  match wanted with
  | none => [.rsReset]
  | some d => [.rsReset, .encSetRd d]

end Sys2Proof.Machine
end

