-- ==== Sys2Proof/Safety.lean ====
section
/-! DEFINITION. What claims about GWCORE are stated in: runs and their observation (spec/70_reset_and_hazards.md R250), fault-free and
initialised states (R242, R250), and the shape of a legal response (spec/30_encoding.md R77, R78). -/

namespace Sys2Proof.Machine

/-- No fault is recorded, the premise R250 asks of a claim. -/
def State.faultFree (s : State) : Prop := s.fault = none

/-- The block part of a state, `st` of R20, without the host's two lists. -/
def State.st (s : State) : Option Disparity × Option Disparity × Option Parity × Option FaultCode :=
  (s.encRd, s.decRd, s.parity, s.fault)

/-- Two states hold the same block state `st`. -/
def State.sameBlock (s t : State) : Prop := t.st = s.st

/-- A run: every pending host event, one step each (R250). -/
def runEvents (s : State) : Answer := Host.Core.run ⟨State, Fault, Refusal, step, State.reset⟩ s.events.length s

/-- A run of commands given as meanings, one after the other (R59). -/
def execAll : List Instr → State → Answer
  | [], s => .next s
  | i :: is, s => andThen (exec i s) (execAll is)

/-- A response word is one that R77 and R78 allow: bits 12..11 are 0, a status 0 to 4 with any D and data, or status 7 with D = 0 and a
fault code of R213. -/
def legalResponse (w : ResponseWord) : Prop :=
  responseReserved w = 0#2 ∧
    ((responseStatus w).toNat ≤ 4 ∨
      (responseStatus w = 7#3 ∧ responseD w = 0#1 ∧ 1 ≤ (responseData w).toNat ∧ (responseData w).toNat ≤ 4))

/-- The invariant of the machine: every response given is a legal one, and while a fault is recorded the host's last response said so.
The second part is R219 and R220 seen by the host (R221: "a host learns of every outcome, including faults, from the response"). -/
def State.Inv (s : State) : Prop :=
  (∀ w ∈ s.responses, legalResponse w) ∧
    ∀ c, s.fault = some c → s.responses.getLast? = some (faultResponse c)

/-- Which commands read `st.enc_rd` (R33). -/
def readsEncRd : Instr → Bool
  | .encByte _ | .encEof | .encGetRd => true
  | .encSetRd _ | .decSymbol _ _ | .decDisparityOf _ | .decNextDisparity _ | .decValidate _ | .decSetRd _ | .decGetRd
  | .rsReset | .rsUpdate _ | .rsRead _ => false

/-- Which commands read `st.dec_rd` (R33). -/
def readsDecRd : Instr → Bool
  | .decValidate _ | .decGetRd => true
  | .encByte _ | .encEof | .encSetRd _ | .encGetRd | .decSymbol _ _ | .decDisparityOf _ | .decNextDisparity _ | .decSetRd _
  | .rsReset | .rsUpdate _ | .rsRead _ => false

/-- Which commands read `st.parity` (R33). -/
def readsParity : Instr → Bool
  | .rsUpdate _ | .rsRead _ => true
  | .encByte _ | .encEof | .encSetRd _ | .encGetRd | .decSymbol _ _ | .decDisparityOf _ | .decNextDisparity _ | .decValidate _
  | .decSetRd _ | .decGetRd | .rsReset => false

/-- Which commands may write `st.enc_rd` (R33). -/
def writesEncRd : Instr → Bool
  | .encByte _ | .encEof | .encSetRd _ => true
  | .encGetRd | .decSymbol _ _ | .decDisparityOf _ | .decNextDisparity _ | .decValidate _ | .decSetRd _ | .decGetRd
  | .rsReset | .rsUpdate _ | .rsRead _ => false

/-- Which commands may write `st.dec_rd` (R33). -/
def writesDecRd : Instr → Bool
  | .decValidate _ | .decSetRd _ => true
  | .encByte _ | .encEof | .encSetRd _ | .encGetRd | .decSymbol _ _ | .decDisparityOf _ | .decNextDisparity _ | .decGetRd
  | .rsReset | .rsUpdate _ | .rsRead _ => false

/-- Which commands may write `st.parity` (R33). -/
def writesParity : Instr → Bool
  | .rsReset | .rsUpdate _ => true
  | .encByte _ | .encEof | .encSetRd _ | .encGetRd | .decSymbol _ _ | .decDisparityOf _ | .decNextDisparity _ | .decValidate _
  | .decSetRd _ | .decGetRd | .rsRead _ => false

/-- The fault a command owes to an unset field, if any (R218 step 3; R215 to R217). -/
def unsetFault (i : Instr) (s : State) : Option FaultCode :=
  if readsEncRd i && s.encRd.isNone then some .encRdUnset
  else if readsDecRd i && s.decRd.isNone then some .decRdUnset
  else if readsParity i && s.parity.isNone then some .rsUnset
  else none

/-- Everything R242 asks the host to initialise is initialised, and no fault is recorded. -/
def State.initialised (s : State) : Prop :=
  s.fault = none ∧ s.encRd.isSome ∧ s.decRd.isSome ∧ s.parity.isSome

/-- The data byte of an RS_UPDATE, for reading off the byte sequence of a frame (R180). -/
def updateByte : Instr → Option Byte
  | .rsUpdate b => some b
  | .encByte _ | .encEof | .encSetRd _ | .encGetRd | .decSymbol _ _ | .decDisparityOf _ | .decNextDisparity _ | .decValidate _
  | .decSetRd _ | .decGetRd | .rsReset | .rsRead _ => none

/-- What the line encoder is given, symbol by symbol: a data byte, or the end-of-frame marker (R2). -/
abbrev LineSymbol := Option Byte

/-- The encoder command of a symbol. -/
def symbolCommand : LineSymbol → Instr
  | some b => .encByte b
  | none => .encEof

/-- The word of a symbol at the disparity before it (R101, R102). -/
def symbolWord (r : Disparity) : LineSymbol → ChannelWord
  | some b => Rom.entryWord (Rom.SYM r b)
  | none => syncWordAt r

/-- The disparity after a symbol (R101, R102). -/
def symbolNext (r : Disparity) : LineSymbol → Disparity
  | some b => Rom.entryNext (Rom.SYM r b)
  | none => flipRd r

/-- What a validating decoder that accepts the encoder's response `e` for a symbol answers (R107): the byte with status OK, or the
end-of-frame word with status SYNC, and the encoder's disparity. -/
def acceptance (x : LineSymbol) (e : ResponseWord) : ResponseWord :=
  match x with
  | some b => packResponse .ok (responseD e) (zext10 b)
  | none => packResponse .sync (responseD e) (responseData e)

/-- The bits of a channel word in transmission order, bit 9 first (R52). -/
def channelBits (w : ChannelWord) : List Bool := (List.range 10).map fun i => w.getLsbD (9 - i)

/-- The longest run of equal bits, given that the last `n` bits were `b`. -/
def longestRunFrom (b : Bool) (n : Nat) : List Bool → Nat
  | [] => n
  | c :: cs => if c = b then longestRunFrom b (n + 1) cs else max n (longestRunFrom c 1 cs)

/-- The longest run of equal bits of a bit sequence (R46 (f)). -/
def longestRun : List Bool → Nat
  | [] => 0
  | b :: bs => longestRunFrom b 1 bs

/-- A word is in neither row of the symbol ROM (R140). -/
def inNeitherRow (w : ChannelWord) : Prop := ∀ r b, Rom.entryWord (Rom.SYM r b) ≠ w

/-- The parity register after data bytes pushed into a register (R175, byte by byte). -/
def parityAfter (p : Parity) (data : List Byte) : Parity := data.foldl rsStep p

end Sys2Proof.Machine
end

