-- ==== Sys2Proof/Certificates/Slice0/Obligations.lean ====
section
/-! DEFINITION. The statements for the provers. Each docstring names the rule of spec/ it formalises. -/

open Sys2Proof Sys2Proof.Machine

/-! ### Command words -/

/-- One word of every row of the opcode map, written out from spec/30_encoding.md R72, R73 (the words of spec/95_test_vectors.md),
decodes to its command. -/
def Obligations.SpecWordsDecodeToTheirCommands : Prop :=
  decode 0b0001000000000101#16 = .ok (.encByte 0x05) ∧
  decode 0b0010000000000000#16 = .ok .encEof ∧
  decode 0b0011100000000000#16 = .ok (.encSetRd .pos) ∧
  decode 0b0011000000000000#16 = .ok (.encSetRd .neg) ∧
  decode 0b0100000000000000#16 = .ok .encGetRd ∧
  decode 0b0101101111111111#16 = .ok (.decSymbol true 0x3FF) ∧
  decode 0b0101000110001010#16 = .ok (.decSymbol false 0x18A) ∧
  decode 0b0110001010101010#16 = .ok (.decDisparityOf 0x2AA) ∧
  decode 0b0111001001110101#16 = .ok (.decNextDisparity 0x275) ∧
  decode 0b1000001100000101#16 = .ok (.decValidate 0x305) ∧
  decode 0b1001100000000000#16 = .ok (.decSetRd .pos) ∧
  decode 0b1010000000000000#16 = .ok .decGetRd ∧
  decode 0b1011000000000000#16 = .ok .rsReset ∧
  decode 0b1100000010000001#16 = .ok (.rsUpdate 0x81) ∧
  decode 0b1101000000011111#16 = .ok (.rsRead 31)

/-- Decoding the encoding of a command gives the command, for all thirteen and every operand value (R70 to R73). -/
def Obligations.DecodeOfEncodeIsTheCommand : Prop := ∀ i : Instr, decode (encode i) = .ok i

/-- A word that decodes to a command is that command's encoding: no two words are one command (R70 to R73). -/
def Obligations.EncodeOfDecodeIsTheWord : Prop := ∀ (w : CommandWord) (i : Instr), decode w = .ok i → encode i = w

/-- R74, whole: a word is a command iff exactly one row of R73 matches it; it is illegal exactly in the cases (a) to (f);
executing an illegal word on a block without a fault raises ILLEGAL_COMMAND; 5672 words are legal. -/
def Obligations.LegalWordsAreTheCommands : Prop :=
  (∀ w : CommandWord, (∃ i, decode w = .ok i) ↔ (opcodeRows.filter fun row => w &&& row.maskBits == row.matchBits).length = 1) ∧
  (∀ w : CommandWord, (∀ i, decode w ≠ .ok i) ↔
    ((cmdOp w = 0x0#4 ∨ cmdOp w = 0xE#4 ∨ cmdOp w = 0xF#4) ∨
      cmdReserved w = 1#1 ∨
      (cmdFlag w = 1#1 ∧ cmdOp w ≠ 0x5#4 ∧ cmdOp w ≠ 0x3#4 ∧ cmdOp w ≠ 0x9#4) ∨
      ((cmdOp w = 0x1#4 ∨ cmdOp w = 0xC#4) ∧ w.extractLsb' 8 2 ≠ 0#2) ∨
      (cmdOp w = 0xD#4 ∧ w.extractLsb' 5 5 ≠ 0#5) ∨
      ((cmdOp w = 0x2#4 ∨ cmdOp w = 0x3#4 ∨ cmdOp w = 0x4#4 ∨ cmdOp w = 0x9#4 ∨ cmdOp w = 0xA#4 ∨ cmdOp w = 0xB#4) ∧
        cmdWord w ≠ 0#10))) ∧
  (∀ (w : CommandWord) (s : State), (∀ i, decode w ≠ .ok i) → s.fault = none →
    issue w s = .next { s with fault := some .illegalCommand, responses := s.responses ++ [0xE001#16] }) ∧
  (List.range 65536).countP (fun w => legalWord (BitVec.ofNat 16 w)) = 5672

/-- R79: a line with its operand in range assembles to a word that decodes to the line's command with that very number as operand, and
a line with an operand out of range assembles to no word at all, legal or illegal. -/
def Obligations.LinesAssembleExactlyInRange : Prop :=
  (∀ b, (Line.encByte b).assemble.bind (fun w => (decode w).toOption) =
    if h : b < 256 then some (.encByte (BitVec.ofNatLT b h)) else none) ∧
  (∀ b, (Line.rsUpdate b).assemble.bind (fun w => (decode w).toOption) =
    if h : b < 256 then some (.rsUpdate (BitVec.ofNatLT b h)) else none) ∧
  (∀ i, (Line.rsRead i).assemble.bind (fun w => (decode w).toOption) =
    if h : i < 32 then some (.rsRead (BitVec.ofNatLT i h)) else none) ∧
  (∀ x, (Line.decSym x).assemble.bind (fun w => (decode w).toOption) =
    if h : x < 1024 then some (.decSymbol false (BitVec.ofNatLT x h)) else none) ∧
  (∀ x, (Line.decSymC x).assemble.bind (fun w => (decode w).toOption) =
    if h : x < 1024 then some (.decSymbol true (BitVec.ofNatLT x h)) else none) ∧
  (∀ x, (Line.decDisp x).assemble.bind (fun w => (decode w).toOption) =
    if h : x < 1024 then some (.decDisparityOf (BitVec.ofNatLT x h)) else none) ∧
  (∀ x, (Line.decNext x).assemble.bind (fun w => (decode w).toOption) =
    if h : x < 1024 then some (.decNextDisparity (BitVec.ofNatLT x h)) else none) ∧
  (∀ x, (Line.decVal x).assemble.bind (fun w => (decode w).toOption) =
    if h : x < 1024 then some (.decValidate (BitVec.ofNatLT x h)) else none) ∧
  (∀ d, (Line.encSetrd d).assemble.bind (fun w => (decode w).toOption) = some (.encSetRd d)) ∧
  (∀ d, (Line.decSetrd d).assemble.bind (fun w => (decode w).toOption) = some (.decSetRd d)) ∧
  Line.encEof.assemble = some 0x2000#16 ∧ Line.encGetrd.assemble = some 0x4000#16 ∧
  Line.decGetrd.assemble = some 0xA000#16 ∧ Line.rsReset.assemble = some 0xB000#16 ∧
  (∀ b, 256 ≤ b → (Line.encByte b).assemble = none ∧ (Line.rsUpdate b).assemble = none) ∧
  (∀ x, 1024 ≤ x → (Line.decSym x).assemble = none ∧ (Line.decSymC x).assemble = none ∧ (Line.decDisp x).assemble = none ∧
    (Line.decNext x).assemble = none ∧ (Line.decVal x).assemble = none) ∧
  (∀ i, 32 ≤ i → (Line.rsRead i).assemble = none)

/-! ### The read-only tables -/

/-- R42, R44: the image of the symbol ROM is the code that R42 constructs from its sub-block tables. -/
def Obligations.SymbolRomIsTheConstructedCode : Prop := ∀ (r : Disparity) (b : Byte), Rom.SYM r b = Rom.constructedEntry r b

/-- R46 (a) to (e) and (g): within a row the words are distinct; a word names one byte, and there are 440 words; the next disparity
is that of the whole word; 72 bytes have one word in both rows, with the row as next disparity; no sync word is in a row; the search
of a byte's word returns that byte. -/
def Obligations.SymbolRomProperties : Prop :=
  (∀ (r : Disparity) (b c : Byte), Rom.entryWord (Rom.SYM r b) = Rom.entryWord (Rom.SYM r c) → b = c) ∧
  (∀ (r q : Disparity) (b c : Byte), Rom.entryWord (Rom.SYM r b) = Rom.entryWord (Rom.SYM q c) → b = c) ∧
  ((List.range 1024).countP fun w => (romFind Rom.SYMBOL_TABLE (BitVec.ofNat 10 w)).isSome) = 440 ∧
  (∀ (r : Disparity) (b : Byte),
    Rom.entryNext (Rom.SYM r b) = Rom.rdAfter r (Rom.entryWord (Rom.SYM r b)) ∧
    (Rom.onesCount (Rom.entryWord (Rom.SYM r b)) = 5 ∨
      (Rom.onesCount (Rom.entryWord (Rom.SYM r b)) = 6 ∧ r = .neg ∧ Rom.entryNext (Rom.SYM r b) = .pos) ∨
      (Rom.onesCount (Rom.entryWord (Rom.SYM r b)) = 4 ∧ r = .pos ∧ Rom.entryNext (Rom.SYM r b) = .neg))) ∧
  ((List.range 256).countP fun b => Rom.entryWord (Rom.SYM .neg (BitVec.ofNat 8 b)) ==
    Rom.entryWord (Rom.SYM .pos (BitVec.ofNat 8 b))) = 72 ∧
  (∀ (r : Disparity) (b : Byte), Rom.entryWord (Rom.SYM .neg b) = Rom.entryWord (Rom.SYM .pos b) →
    Rom.entryNext (Rom.SYM r b) = r) ∧
  (∀ (r : Disparity) (b : Byte), Rom.entryWord (Rom.SYM r b) ≠ 0x0FA#10 ∧ Rom.entryWord (Rom.SYM r b) ≠ 0x305#10) ∧
  (∀ (r : Disparity) (b : Byte), (romFind Rom.SYMBOL_TABLE (Rom.entryWord (Rom.SYM r b))).map (fun x => x.2.1) = some b)

/-- R46 (f): over two consecutive symbols along a legal disparity path, data or sync, no run of equal bits is longer than 5. -/
def Obligations.NoRunOfMoreThanFiveEqualBits : Prop :=
  ∀ (r : Disparity) (x y : LineSymbol),
    longestRun (channelBits (symbolWord r x) ++ channelBits (symbolWord (symbolNext r x) y)) ≤ 5

/-- R45, R12: the two sync words, their count of 1s, their bits in transmission order, and that the complement is an involution. -/
def Obligations.SyncWordsAreComplementsOffByTwo : Prop :=
  Rom.SYNC_WORD = 0b0011111010#10 ∧ comp10 Rom.SYNC_WORD = 0b1100000101#10 ∧
  Rom.onesCount Rom.SYNC_WORD = 6 ∧ Rom.onesCount (comp10 Rom.SYNC_WORD) = 4 ∧
  Rom.rdAfter .neg (syncWordAt .neg) = .pos ∧ Rom.rdAfter .pos (syncWordAt .pos) = .neg ∧
  (∀ (r : Disparity) (b : Byte), Rom.entryWord (Rom.SYM r b) ≠ Rom.SYNC_WORD ∧
    Rom.entryWord (Rom.SYM r b) ≠ comp10 Rom.SYNC_WORD) ∧
  (∀ w : ChannelWord, comp10 w = ~~~w &&& 0x3FF#10 ∧ comp10 (comp10 w) = w)

/-- R47, R48: `ALPHA_TO` holds the powers of α for 0 to 254 and 0 at 255, `INDEX_OF` is its inverse with the sentinel 255 at 0,
and both, computed from FIELD_POLY and A0, are the images that the spec prints. -/
def Obligations.FieldRomsAreAntilogAndLog : Prop :=
  (∀ i : Nat, i ≤ 254 → Rom.ALPHA_TO (BitVec.ofNat 8 i) = Rom.alphaPower i) ∧
  (∀ i : Nat, i < 254 → Rom.ALPHA_TO (BitVec.ofNat 8 (i + 1)) = Rom.timesAlpha (Rom.ALPHA_TO (BitVec.ofNat 8 i))) ∧
  Rom.ALPHA_TO 0x01#8 = 0x02#8 ∧ Rom.ALPHA_TO 255#8 = 0#8 ∧ Rom.INDEX_OF 0#8 = 255#8 ∧ Rom.A0 = 255#8 ∧
  (∀ i : Nat, i ≤ 254 → Rom.INDEX_OF (Rom.ALPHA_TO (BitVec.ofNat 8 i)) = BitVec.ofNat 8 i) ∧
  (∀ v : Byte, v ≠ 0#8 → Rom.INDEX_OF v ≠ Rom.A0 ∧ Rom.ALPHA_TO (Rom.INDEX_OF v) = v) ∧
  (∀ i : Byte, Rom.ALPHA_TO i = Rom.imageAt Rom.alphaImage i) ∧ (∀ v : Byte, Rom.INDEX_OF v = Rom.imageAt Rom.indexImage v)

/-- R49, R50: the 33 coefficients in log form are those of the product of `x - α^(11·(112 + i) mod 255)`, the polynomial is monic of
degree 32 and palindromic, the half table holds the 17 values of R49, and none is the sentinel. -/
def Obligations.GeneratorIsTheProductOfItsRoots : Prop :=
  (List.finRange 17).map Rom.GENPOLY = [0#8, 249#8, 59#8, 66#8, 4#8, 43#8, 126#8, 251#8, 97#8, 30#8, 3#8, 213#8, 50#8, 66#8, 170#8,
    5#8, 24#8] ∧
  generator = generatorOfRoots ∧ generator.length = 33 ∧ generator.getLast? = some 1#8 ∧
  (∀ k : Nat, k ≤ 32 → Rom.fullGenerator k = Rom.fullGenerator (32 - k)) ∧
  (∀ j : Fin Config.halfGeneratorLength, Rom.GENPOLY j ≠ Rom.A0 ∧ Rom.fullGenerator j.val = Rom.GENPOLY j)

/-! ### Field arithmetic -/

/-- R171 against R47: the log and antilog product is the product of polynomials in α reduced by FIELD_POLY. -/
def Obligations.ProductByLogsIsThePolynomialProduct : Prop := ∀ a b : Byte, gmul a b = polynomialProduct a b

/-- R170, R171: GF(256) is a field. The sum is exclusive or, commutative and associative, with 0 as zero and each element its own
opposite; the product is commutative, associative and distributive, with 1 as unit, 0 absorbing, and an inverse for every nonzero
element. -/
def Obligations.FieldLaws : Prop :=
  (∀ a b : Byte, gadd a b = a ^^^ b) ∧
  (∀ a b c : Byte, gadd (gadd a b) c = gadd a (gadd b c)) ∧
  (∀ a b : Byte, gadd a b = gadd b a) ∧
  (∀ a : Byte, gadd a 0#8 = a ∧ gadd a a = 0#8) ∧ (1#8 : Byte) ≠ 0#8 ∧
  (∀ a b c : Byte, gmul a (gadd b c) = gadd (gmul a b) (gmul a c)) ∧
  (∀ a b c : Byte, gmul (gmul a b) c = gmul a (gmul b c)) ∧
  (∀ a b : Byte, gmul a b = gmul b a) ∧
  (∀ a : Byte, gmul 1#8 a = a ∧ gmul 0#8 a = 0#8) ∧
  (∀ a : Byte, a ≠ 0#8 → ∃ b, gmul a b = 1#8)

/-- R172: the terminating fold is `x mod 255`, for every `x` (R172 asks it for 0 to 508), given `x` turns of its loop. -/
def Obligations.FoldIsReductionModulo255 : Prop := ∀ fuel x : Nat, x ≤ fuel → mod255Fold fuel x = x % 255

/-! ### Steps, reset and faults -/

/-- The model's choice, log entries 1 and 2: a step takes the first of the host's pending events, and where it is a word that decodes to
`i`, the step runs `i`; `withFetchWord` places such a word. That commands run one at a time in the order issued is R59; the list of
pending events and `withFetchWord` are no rule of the spec (the block fetches nothing, R22). -/
def Obligations.StepRunsTheDecodedCommand : Prop :=
  (∀ (s : State) (w : CommandWord) (rest : List HostEvent) (i : Instr), s.events = .command w :: rest → decode w = .ok i →
    step s = exec i { s with events := rest }) ∧
  (∀ (s : State) (i : Instr), step (s.withFetchWord 16 (encode i).toNat) = exec i s)

/-- The model's choice, log entry 3: with no event pending the run has ended (R250) and `step` says so. -/
def Obligations.StepWithoutEventStops : Prop := ∀ s : State, s.events = [] → step s = .fault .noHostEvent

/-- R240, whole: the reset event clears the four fields, gives no response; the power-on state is the reset state; no command clears a
fault. That the pending events and the received responses stay is the model's reading (log entry 5). -/
def Obligations.ResetEventClearsTheBlock : Prop :=
  (∀ (s : State) (rest : List HostEvent), s.events = .reset :: rest →
    step s = .next { encRd := none, decRd := none, parity := none, fault := none, events := rest, responses := s.responses }) ∧
  State.reset.st = (none, none, none, none) ∧
  (∀ (w : CommandWord) (s t : State) (c : FaultCode), s.fault = some c → issue w s = .next t → t.fault = some c)

/-- R32, R215, R216, R217: every field is unset after reset, and a command that reads an unset field faults with that field's code,
recording and answering it, instead of returning a value. -/
def Obligations.UnsetFieldsFault : Prop :=
  (State.reset.encRd = none ∧ State.reset.decRd = none ∧ State.reset.parity = none ∧ State.reset.fault = none) ∧
  (∀ s : State, s.fault = none → s.encRd = none → ∀ i, ((∃ b, i = .encByte b) ∨ i = .encEof ∨ i = .encGetRd) →
    exec i s = .next { s with fault := some .encRdUnset, responses := s.responses ++ [0xE002#16] }) ∧
  (∀ s : State, s.fault = none → s.decRd = none → ∀ i, ((∃ w, i = .decValidate w) ∨ i = .decGetRd) →
    exec i s = .next { s with fault := some .decRdUnset, responses := s.responses ++ [0xE003#16] }) ∧
  (∀ s : State, s.fault = none → s.parity = none → ∀ i, ((∃ b, i = .rsUpdate b) ∨ (∃ x, i = .rsRead x)) →
    exec i s = .next { s with fault := some .rsUnset, responses := s.responses ++ [0xE004#16] })

/-- R219, whole: a command word that faults with code `c` records it, answers FAULT with it, and changes nothing else. -/
def Obligations.FaultEntryIsPrecise : Prop :=
  ∀ (w : CommandWord) (s t : State) (c : FaultCode), s.fault = none → issue w s = .next t → t.fault = some c →
    t = { s with fault := some c, responses := s.responses ++ [packResponse .fault 0#1 c.code] }

/-- R220 and R240 over runs: in a faulted block every command word, legal or not, however many, changes nothing and is answered with
FAULT and the first code; a reset event then gives the reset state (R240). That the reset event leaves the host's received responses and
pending events is the model's reading, log entry 5. -/
def Obligations.FaultedBlockAnswersFirstCodeUntilReset : Prop :=
  ∀ (s : State) (c : FaultCode) (ws : List CommandWord), s.fault = some c →
    runEvents { s with events := ws.map HostEvent.command } =
      .next { s with events := [], responses := s.responses ++ List.replicate ws.length (packResponse .fault 0#1 c.code) } ∧
    runEvents { s with events := ws.map HostEvent.command ++ [.reset] } =
      .next { State.reset with responses := s.responses ++ List.replicate ws.length (packResponse .fault 0#1 c.code) }

/-- R218, whole: the fault gate decides first, then legality, then the unset field; otherwise the command completes. -/
def Obligations.ChecksApplyInOrder : Prop :=
  ∀ (w : CommandWord) (s : State),
    (∀ c, s.fault = some c → issue w s = .next { s with responses := s.responses ++ [packResponse .fault 0#1 c.code] }) ∧
    (s.fault = none → legalWord w = false →
      issue w s = .next { s with fault := some .illegalCommand, responses := s.responses ++ [packResponse .fault 0#1 1#10] }) ∧
    (∀ i, s.fault = none → decode w = .ok i → ∀ c, unsetFault i s = some c →
      issue w s = .next { s with fault := some c, responses := s.responses ++ [packResponse .fault 0#1 c.code] }) ∧
    (∀ i, s.fault = none → decode w = .ok i → unsetFault i s = none →
      ∃ t, issue w s = .next t ∧ issue w s = exec i s ∧ t.fault = none)

/-- R76, R224: every command word, legal or not, faulted block or not, completes in one step with exactly one response word, and takes
exactly its own event. -/
def Obligations.EveryCommandGivesOneResponse : Prop :=
  ∀ (s : State) (w : CommandWord) (rest : List HostEvent), s.events = .command w :: rest →
    ∃ (t : State) (r : ResponseWord), step s = .next t ∧ t.responses = s.responses ++ [r] ∧ t.events = rest

/-- R78 command by command: the status and what it says. -/
def Obligations.StatusesByCommand : Prop :=
  ∀ (i : Instr) (s t : State) (r : ResponseWord), exec i s = .next t → t.responses = s.responses ++ [r] →
    (responseStatus r = 1#3 → (∃ c w, i = .decSymbol c w) ∨ (∃ w, i = .decDisparityOf w) ∨ (∃ w, i = .decNextDisparity w) ∨
      ∃ w, i = .decValidate w) ∧
    (responseStatus r = 2#3 ∨ responseStatus r = 3#3 ∨ responseStatus r = 4#3 → ∃ w, i = .decValidate w) ∧
    responseStatus r ≠ 5#3 ∧ responseStatus r ≠ 6#3 ∧
    (responseStatus r = 7#3 ↔ t.fault ≠ none) ∧
    (∀ c, t.fault = some c → responseData r = c.code)

/-- R77, R78, R219, R220 as an invariant: every response is legal, and while a fault is recorded the last response carries its code. -/
def Obligations.StepKeepsInvariant : Prop := ∀ s t : State, s.Inv → step s = .next t → t.Inv

/-- The invariant of R77, R78, R219 and R220 holds at reset. -/
def Obligations.InvariantHoldsAtReset : Prop := State.reset.Inv

/-! ### The line encoder -/

/-- R101, R105: ENC_BYTE answers the table entry's word and next disparity with OK and keeps the next disparity. -/
def Obligations.EncByteEncodesTheTableEntry : Prop :=
  ∀ (s : State) (r : Disparity) (b : Byte), s.fault = none → s.encRd = some r →
    exec (.encByte b) s = .next { s with
      encRd := some (Rom.entryNext (Rom.SYM r b)),
      responses := s.responses ++ [packResponse .ok (Rom.entryNext (Rom.SYM r b)).bit (Rom.entryWord (Rom.SYM r b))] }

/-- R102, R106: ENC_EOF answers 0x0FA at NEG and 0x305 at POS, and leaves the other disparity. -/
def Obligations.EncEofTogglesTheDisparity : Prop :=
  ∀ s : State, s.fault = none →
    (s.encRd = some .neg → exec .encEof s = .next { s with encRd := some .pos, responses := s.responses ++ [0x04FA#16] }) ∧
    (s.encRd = some .pos → exec .encEof s = .next { s with encRd := some .neg, responses := s.responses ++ [0x0305#16] })

/-- R103, R136: the two SET_RD commands complete on any block without a fault, set their own disparity to `d`, answer it in D, and
leave everything else. -/
def Obligations.SetRdSetsOneDisparity : Prop :=
  ∀ (s : State) (d : Disparity), s.fault = none →
    exec (.encSetRd d) s = .next { s with encRd := some d, responses := s.responses ++ [packResponse .ok d.bit 0#10] } ∧
    exec (.decSetRd d) s = .next { s with decRd := some d, responses := s.responses ++ [packResponse .ok d.bit 0#10] }

/-- R104, R137: the two GET_RD commands answer their disparity in D and change nothing. -/
def Obligations.GetRdAnswersTheDisparity : Prop :=
  ∀ (s : State) (r : Disparity), s.fault = none →
    (s.encRd = some r → exec .encGetRd s = .next { s with responses := s.responses ++ [packResponse .ok r.bit 0#10] }) ∧
    (s.decRd = some r → exec .decGetRd s = .next { s with responses := s.responses ++ [packResponse .ok r.bit 0#10] })

/-! ### The line decoder -/

/-- R130, whole, for any symbol table: `FindRow` gives the first entry of the row with the word, in ascending byte order, and `none`
iff there is none; `Find` is row NEG first, then row POS; in the block's own ROM the two sync words are not found. -/
def Obligations.FindReturnsTheFirstMatch : Prop :=
  ∀ (T : Rom.SymbolTable) (w : ChannelWord),
    (∀ (r : Disparity) (b : Byte) (n : Disparity), romFindRow T r w = some (b, n) ↔
      (Rom.entryWord (T r b) = w ∧ n = Rom.entryNext (T r b) ∧
        ∀ c : Byte, c.toNat < b.toNat → Rom.entryWord (T r c) ≠ w)) ∧
    (∀ r : Disparity, romFindRow T r w = none ↔ ∀ b : Byte, Rom.entryWord (T r b) ≠ w) ∧
    (∀ (r : Disparity) (b : Byte) (n : Disparity), romFind T w = some (r, b, n) ↔
      ((r = .neg ∧ romFindRow T .neg w = some (b, n)) ∨
        (r = .pos ∧ romFindRow T .neg w = none ∧ romFindRow T .pos w = some (b, n)))) ∧
    (romFind T w = none ↔ ∀ (r : Disparity) (b : Byte), Rom.entryWord (T r b) ≠ w) ∧
    romFind Rom.SYMBOL_TABLE 0x0FA#10 = none ∧ romFind Rom.SYMBOL_TABLE 0x305#10 = none

/-- R131 on the ROM: a word that both rows hold for a byte is found in row NEG with next disparity NEG; any other word of the ROM is
the word of one entry only, and that entry is found. -/
def Obligations.SharedWordsAreFoundInRowNeg : Prop :=
  (∀ b : Byte, Rom.entryWord (Rom.SYM .neg b) = Rom.entryWord (Rom.SYM .pos b) →
    romFind Rom.SYMBOL_TABLE (Rom.entryWord (Rom.SYM .neg b)) = some (.neg, b, .neg)) ∧
  (∀ (r : Disparity) (b : Byte), Rom.entryWord (Rom.SYM .neg b) ≠ Rom.entryWord (Rom.SYM .pos b) →
    romFind Rom.SYMBOL_TABLE (Rom.entryWord (Rom.SYM r b)) = some (r, b, Rom.entryNext (Rom.SYM r b)) ∧
    ∀ (q : Disparity) (c : Byte), Rom.entryWord (Rom.SYM q c) = Rom.entryWord (Rom.SYM r b) → q = r ∧ c = b)

/-- 92_eei_decisions.md D16: a round trip for any symbol table in which a word names one byte (the property R46 (b)). -/
def Obligations.AnyUnambiguousTableRoundTrips : Prop :=
  ∀ T : Rom.SymbolTable,
    (∀ (r q : Disparity) (b c : Byte), Rom.entryWord (T r b) = Rom.entryWord (T q c) → b = c) →
    ∀ (r : Disparity) (b : Byte),
      romFindRow T r (Rom.entryWord (T r b)) = some (b, Rom.entryNext (T r b)) ∧
      ∃ q n, romFind T (Rom.entryWord (T r b)) = some (q, b, n)

/-- R132: DEC_SYMBOL completes on any block without a fault, searching the word, or with `c` its complement and only that: OK with the
byte, or NOT_FOUND with D and data 0; nothing else changes. -/
def Obligations.DecSymbolAnswersTheByte : Prop :=
  ∀ (s : State) (c : Bool) (w : ChannelWord), s.fault = none →
    exec (.decSymbol c w) s = .next { s with responses := s.responses ++
      [match romFind Rom.SYMBOL_TABLE (if c then ~~~w else w) with
        | some (_, b, _) => packResponse .ok 0#1 (b.setWidth 10)
        | none => packResponse .notFound 0#1 0#10] }

/-- R133, R134: DEC_DISPARITY_OF answers the row of the first match, DEC_NEXT_DISPARITY the disparity it carries; a miss is NOT_FOUND
with D and data 0; nothing else changes. -/
def Obligations.DisparityQueriesAnswerTheFirstMatch : Prop :=
  ∀ (s : State) (w : ChannelWord), s.fault = none →
    exec (.decDisparityOf w) s = .next { s with responses := s.responses ++
      [match romFind Rom.SYMBOL_TABLE w with
        | some (r, _, _) => packResponse .ok r.bit 0#10
        | none => packResponse .notFound 0#1 0#10] } ∧
    exec (.decNextDisparity w) s = .next { s with responses := s.responses ++
      [match romFind Rom.SYMBOL_TABLE w with
        | some (_, _, n) => packResponse .ok n.bit 0#10
        | none => packResponse .notFound 0#1 0#10] }

/-- R135: the five outcomes of DEC_VALIDATE at disparity `r`, told by the ROM's entries: a data word of row `r`; a data word of the
other row only; the sync word of `r`; the other sync word; a miss, which keeps the disparity. -/
def Obligations.DecValidateOutcomes : Prop :=
  ∀ (s : State) (r : Disparity) (w : ChannelWord), s.fault = none → s.decRd = some r →
    (∀ b : Byte, Rom.entryWord (Rom.SYM r b) = w →
      exec (.decValidate w) s = .next { s with
        decRd := some (Rom.entryNext (Rom.SYM r b)),
        responses := s.responses ++ [packResponse .ok (Rom.entryNext (Rom.SYM r b)).bit (b.setWidth 10)] }) ∧
    (∀ b : Byte, Rom.entryWord (Rom.SYM (flipRd r) b) = w → (∀ c : Byte, Rom.entryWord (Rom.SYM r c) ≠ w) →
      exec (.decValidate w) s = .next { s with
        decRd := some (Rom.entryNext (Rom.SYM (flipRd r) b)),
        responses := s.responses ++ [packResponse .rdError (Rom.entryNext (Rom.SYM (flipRd r) b)).bit (b.setWidth 10)] }) ∧
    (w = syncWordAt r → exec (.decValidate w) s = .next { s with
      decRd := some (flipRd r), responses := s.responses ++ [packResponse .sync (flipRd r).bit w] }) ∧
    (w = syncWordAt (flipRd r) → exec (.decValidate w) s = .next { s with
      decRd := some r, responses := s.responses ++ [packResponse .rdErrorSync r.bit w] }) ∧
    ((∀ (q : Disparity) (b : Byte), Rom.entryWord (Rom.SYM q b) ≠ w) → w ≠ syncWordAt r → w ≠ syncWordAt (flipRd r) →
      exec (.decValidate w) s = .next { s with responses := s.responses ++ [packResponse .notFound 0#1 0#10] })

/-- R139, whole: the round trip through DEC_SYMBOL and through DEC_VALIDATE, for both disparities and every byte. -/
def Obligations.RoundTripOfEveryByte : Prop :=
  ∀ (s : State) (r : Disparity) (b : Byte), s.fault = none →
    exec (.decSymbol false (Rom.entryWord (Rom.SYM r b))) s =
      .next { s with responses := s.responses ++ [packResponse .ok 0#1 (b.setWidth 10)] } ∧
    (s.decRd = some r → exec (.decValidate (Rom.entryWord (Rom.SYM r b))) s = .next { s with
      decRd := some (Rom.entryNext (Rom.SYM r b)),
      responses := s.responses ++ [packResponse .ok (Rom.entryNext (Rom.SYM r b)).bit (b.setWidth 10)] })

/-- R140, whole, with the response of R138: a word in neither row is NOT_FOUND, data 0 and D 0, from the three stateless commands, and
from DEC_VALIDATE unless it is a sync word; 440 data words, 2 sync words, 582 misses; the four one-bit flips of 0x274. -/
def Obligations.DecodeMissIsReported : Prop :=
  (∀ (s : State) (w : ChannelWord), s.fault = none → inNeitherRow w →
    (∀ i, (i = .decSymbol false w ∨ i = .decDisparityOf w ∨ i = .decNextDisparity w) →
      exec i s = .next { s with responses := s.responses ++ [0x2000#16] }) ∧
    (s.decRd ≠ none → w ≠ 0x0FA#10 → w ≠ 0x305#10 →
      exec (.decValidate w) s = .next { s with responses := s.responses ++ [0x2000#16] })) ∧
  ((List.range 1024).countP fun w => (romFind Rom.SYMBOL_TABLE (BitVec.ofNat 10 w)).isSome) = 440 ∧
  ((List.range 1024).countP fun w => (romFind Rom.SYMBOL_TABLE (BitVec.ofNat 10 w)).isNone &&
    BitVec.ofNat 10 w != 0x0FA#10 && BitVec.ofNat 10 w != 0x305#10) = 582 ∧
  inNeitherRow 0x0FA#10 ∧ inNeitherRow 0x305#10 ∧
  (∀ k : Nat, k ∈ [2, 3, 7, 8] → inNeitherRow (0x274#10 ^^^ BitVec.twoPow 10 k))

/-- R107: whatever data bytes and end-of-frame markers the encoder is given, in whatever order, a decoder that starts at the same
disparity accepts every word: OK with the byte or SYNC, with the encoder's disparity after each, and ends at the encoder's disparity. -/
def Obligations.DecoderAcceptsEveryEncodedStream : Prop :=
  ∀ (xs : List LineSymbol) (s : State) (r : Disparity), s.fault = none → s.encRd = some r →
    ∃ (q : Disparity) (encs : List ResponseWord),
      execAll (xs.map symbolCommand) s = .next { s with encRd := some q, responses := s.responses ++ encs } ∧
      encs.length = xs.length ∧ (∀ e ∈ encs, responseStatus e = 0#3) ∧
      ∀ u : State, u.fault = none → u.decRd = some r →
        execAll (encs.map fun e => .decValidate (responseData e)) u =
          .next { u with decRd := some q, responses := u.responses ++ List.zipWith acceptance xs encs }

/-! ### The parity accumulator -/

/-- R174: RS_RESET completes on any block without a fault, zeroes all 32 bytes, and touches nothing else (R25). -/
def Obligations.RsResetZeroesTheRegister : Prop :=
  ∀ s : State, s.fault = none →
    exec .rsReset s = .next { s with parity := some (Vector.replicate 32 0#8), responses := s.responses ++ [0x0000#16] }

/-- R175: RS_UPDATE leaves, byte by byte, the shifted register with the feedback's multiple of the full generator added (R50), or the
plain shift where the byte equals `p[0]`. -/
def Obligations.RsUpdateIsOneRegisterStep : Prop :=
  ∀ (s : State) (p : Parity) (b : Byte), s.fault = none → s.parity = some p →
    ∃ q : Parity, exec (.rsUpdate b) s = .next { s with parity := some q, responses := s.responses ++ [0x0000#16] } ∧
      (∀ (k : Nat) (h : k + 1 < Config.parityBytes), q[k] = if b = p[0] then p[k + 1] else p[k + 1] ^^^
        Rom.ALPHA_TO (BitVec.ofNat 8 (((Rom.INDEX_OF (b ^^^ p[0])).toNat + (Rom.fullGenerator (k + 1)).toNat) % 255))) ∧
      q[31] = b ^^^ p[0]

/-- R176: RS_READ answers the byte of its index and changes nothing. -/
def Obligations.RsReadAnswersTheByte : Prop :=
  ∀ (s : State) (p : Parity) (k : BitVec 5), s.fault = none → s.parity = some p →
    exec (.rsRead k) s = .next { s with responses := s.responses ++ [packResponse .ok 0#1 ((p[k.toNat]'k.isLt).setWidth 10)] }

/-- R177, with R246 for frames of any length: after RS_RESET and the RS_UPDATE of the data bytes, the codeword, data then parity, the
first byte the highest coefficient, is a multiple of the generator and vanishes at each of its 32 roots. -/
def Obligations.ParityCompletesACodeword : Prop :=
  ∀ (s : State) (data : List Byte), s.fault = none →
    ∃ (t : State) (p : Parity), execAll (.rsReset :: data.map Instr.rsUpdate) s = .next t ∧ t.parity = some p ∧
      (∀ i : Nat, i < 32 → polyEval (data ++ p.toList).reverse (codeRoot i) = 0#8) ∧
      (data ≠ [] → ∃ m : Poly, m.length = data.length ∧ polyMul m generatorOfRoots = (data ++ p.toList).reverse)

/-- R178: leading zero bytes change no parity byte. -/
def Obligations.LeadingZerosChangeNoParity : Prop :=
  ∀ (s : State) (n : Nat) (data : List Byte), s.fault = none →
    ∃ t u : State, execAll (.rsReset :: data.map Instr.rsUpdate) s = .next t ∧
      execAll (.rsReset :: (List.replicate n 0#8 ++ data).map Instr.rsUpdate) s = .next u ∧
      t.parity = u.parity ∧ t.parity ≠ none

/-- R179: any number of zero bytes leaves all parity bytes zero. -/
def Obligations.ZeroInputGivesZeroParity : Prop :=
  ∀ (s : State) (n : Nat), s.fault = none →
    ∃ t : State, execAll (.rsReset :: List.replicate n (.rsUpdate 0#8)) s = .next t ∧
      t.parity = some (Vector.replicate 32 0#8)

/-- R180: after RS_RESET the parity depends on the bytes of the RS_UPDATE commands alone: two blocks in any earlier states, with any
other commands in between, hold the same parity if their byte sequences are the same and neither faulted. -/
def Obligations.ParityDependsOnItsBytesAlone : Prop :=
  ∀ (s₁ s₂ t₁ t₂ : State) (c₁ c₂ : List Instr),
    execAll (.rsReset :: c₁) s₁ = .next t₁ → execAll (.rsReset :: c₂) s₂ = .next t₂ → t₁.fault = none → t₂.fault = none →
    .rsReset ∉ c₁ → .rsReset ∉ c₂ → c₁.filterMap updateByte = c₂.filterMap updateByte → t₁.parity = t₂.parity

/-- R181: the parity of the exclusive or of two byte sequences of one length is the exclusive or of their parities. -/
def Obligations.ParityIsLinear : Prop :=
  ∀ (s : State) (a b : List Byte), s.fault = none → a.length = b.length →
    ∃ (t u v : State) (p q m : Parity),
      execAll (.rsReset :: a.map Instr.rsUpdate) s = .next t ∧ t.parity = some p ∧
      execAll (.rsReset :: b.map Instr.rsUpdate) s = .next u ∧ u.parity = some q ∧
      execAll (.rsReset :: (List.zipWith (· ^^^ ·) a b).map Instr.rsUpdate) s = .next v ∧ v.parity = some m ∧
      ∀ (k : Nat) (h : k < Config.parityBytes), m[k] = p[k] ^^^ q[k]

/-! ### The whole machine -/

/-- R33, the writes: a command changes `enc_rd`, `dec_rd` or `parity` only where R33 has a W, records a fault only where there was
none, and takes none of the host's events; only ENC_SET_RD, DEC_SET_RD and RS_RESET take their field out of `none` (R103, R136, R174),
and no command puts a field back to `none`. -/
def Obligations.CommandsWriteOnlyTheirFields : Prop :=
  ∀ (i : Instr) (s t : State), exec i s = .next t →
    (writesEncRd i = false → t.encRd = s.encRd) ∧ (writesDecRd i = false → t.decRd = s.decRd) ∧
    (writesParity i = false → t.parity = s.parity) ∧ (s.fault ≠ none → t.fault = s.fault) ∧
    (t.fault ≠ none → t.encRd = s.encRd ∧ t.decRd = s.decRd ∧ t.parity = s.parity) ∧ t.events = s.events ∧
    (s.encRd = none → t.encRd ≠ none → ∃ d, i = .encSetRd d) ∧ (s.decRd = none → t.decRd ≠ none → ∃ d, i = .decSetRd d) ∧
    (s.parity = none → t.parity ≠ none → i = .rsReset) ∧
    (s.encRd ≠ none → t.encRd ≠ none) ∧ (s.decRd ≠ none → t.decRd ≠ none) ∧ (s.parity ≠ none → t.parity ≠ none)

/-- R33, the reads: of two blocks that agree on `fault` and on the fields R33 says a command reads, the command gives one response, and
what it writes into a field is the same in both. -/
def Obligations.CommandsReadOnlyTheirFields : Prop :=
  ∀ (i : Instr) (s₁ s₂ : State), s₁.fault = s₂.fault → (readsEncRd i = true → s₁.encRd = s₂.encRd) →
    (readsDecRd i = true → s₁.decRd = s₂.decRd) → (readsParity i = true → s₁.parity = s₂.parity) →
    ∃ (t₁ t₂ : State) (r : ResponseWord), exec i s₁ = .next t₁ ∧ exec i s₂ = .next t₂ ∧
      t₁.responses = s₁.responses ++ [r] ∧ t₂.responses = s₂.responses ++ [r] ∧ t₁.fault = t₂.fault ∧
      (t₁.encRd = t₂.encRd ∨ (t₁.encRd = s₁.encRd ∧ t₂.encRd = s₂.encRd)) ∧
      (t₁.decRd = t₂.decRd ∨ (t₁.decRd = s₁.decRd ∧ t₂.decRd = s₂.decRd)) ∧
      (t₁.parity = t₂.parity ∨ (t₁.parity = s₁.parity ∧ t₂.parity = s₂.parity))

/-- R58, whole: the six observing commands change no state unless they fault and answer the same again; three commands are idempotent;
four are not, repeating one changes the state or the response. -/
def Obligations.ObservingAndIdempotentCommands : Prop :=
  (∀ (i : Instr) (s t : State), (i = .encGetRd ∨ (∃ c w, i = .decSymbol c w) ∨ (∃ w, i = .decDisparityOf w) ∨
      (∃ w, i = .decNextDisparity w) ∨ i = .decGetRd ∨ (∃ k, i = .rsRead k)) →
    exec i s = .next t → t.fault = none → t.st = s.st ∧
      ∃ (u : State) (r : ResponseWord), exec i t = .next u ∧ t.responses = s.responses ++ [r] ∧
        u.responses = s.responses ++ [r, r]) ∧
  (∀ (i : Instr) (s t : State), ((∃ d, i = .encSetRd d) ∨ (∃ d, i = .decSetRd d) ∨ i = .rsReset) → exec i s = .next t →
    ∃ u, exec i t = .next u ∧ u.st = t.st) ∧
  (∃ b, ∃ s t u : State, exec (.encByte b) s = .next t ∧ exec (.encByte b) t = .next u ∧ u.st ≠ t.st) ∧
  (∃ s t u : State, exec .encEof s = .next t ∧ exec .encEof t = .next u ∧ u.st ≠ t.st) ∧
  (∃ w, ∃ s t u : State, exec (.decValidate w) s = .next t ∧ exec (.decValidate w) t = .next u ∧
    (t.responses.getLast? ≠ u.responses.getLast? ∨ u.st ≠ t.st)) ∧
  (∃ b, ∃ s t u : State, exec (.rsUpdate b) s = .next t ∧ exec (.rsUpdate b) t = .next u ∧ u.st ≠ t.st)

/-- R242: from reset, the three initialising commands in any order give one and the same block state, the one of
spec/95_test_vectors.md 2.6. -/
def Obligations.InitialisationInAnyOrder : Prop :=
  ∀ (enc dec : Disparity) (cs : List Instr), cs.Perm (initCommands enc dec) →
    ∃ t : State, execAll cs State.reset = .next t ∧
      t.st = (some enc, some dec, some (Vector.replicate 32 0#8), none)

/-- R242, R246: once the host has initialised what R242 asks for, no sequence of commands faults, and all of it stays initialised. -/
def Obligations.InitialisedBlockNeverFaults : Prop :=
  ∀ (cs : List Instr) (s : State), s.initialised →
    ∃ t : State, execAll cs s = .next t ∧ t.initialised ∧ t.responses.length = s.responses.length + cs.length

/-- R243, R246: sending a frame by the host protocol from an encoder at disparity `r` completes without a fault, leaves the parity of
the data in the register, and transmits one word for each data byte, each parity byte in index order, and the end of the frame; a
decoder at `r` that validates the words gets back exactly these bytes, then SYNC, and ends at the encoder's disparity. -/
def Obligations.FrameIsSentAndReceived : Prop :=
  ∀ (s : State) (r : Disparity) (data : List Byte), s.fault = none → s.encRd = some r →
    ∃ (t : State) (words : List ChannelWord) (p : Parity) (q : Disparity),
      sendFrame data ⟨s, []⟩ = .next ⟨t, words⟩ ∧ t.fault = none ∧ t.encRd = some q ∧ t.decRd = s.decRd ∧
      t.parity = some p ∧ p = parityAfter zeroParity data ∧ words.length = data.length + 33 ∧
      ∀ u : State, u.fault = none → u.decRd = some r →
        ∃ acks : List ResponseWord,
          execAll (words.map Instr.decValidate) u = .next { u with decRd := some q, responses := u.responses ++ acks } ∧
          acks.map responseStatus = List.replicate (data.length + 32) 0#3 ++ [3#3] ∧
          (acks.take (data.length + 32)).map responseData = (data ++ p.toList).map (fun b => b.setWidth 10)
end

