-- ==== Sys2Proof/Laws/Decode.lean ====
section
/-! SUPPORT. The fields of a packed command word are the fields it was packed from. -/

namespace Sys2Proof

section
variable (op : BitVec 4) (f : BitVec 1) (x : BitVec 10)

/-- Every bit of a packed command word. -/
theorem getLsbD_pack (i : Nat) :
    (packCommand op f x).getLsbD i =
      if i < 10 then x.getLsbD i else if i < 11 then false else if i < 12 then f.getLsbD (i - 11)
      else op.getLsbD (i - 12) := by
  unfold packCommand
  simp only [BitVec.getLsbD_append]
  by_cases h1 : i < 10
  · simp [h1]
  · by_cases h2 : i < 11
    · have : i - 10 < 1 := by omega
      simp [h1, h2, this]
    · have h3 : ¬ i - 10 < 1 := by omega
      by_cases h4 : i < 12
      · obtain rfl : i = 11 := by omega
        simp
      · have h5 : ¬ i - 10 - 1 < 1 := by omega
        simp [h1, h2, h3, h4, h5, show i - 10 - 1 - 1 = i - 12 by omega]

@[simp] theorem cmdOp_pack : cmdOp (packCommand op f x) = op := by
  unfold cmdOp
  ext i hi
  rw [BitVec.getElem_extractLsb', getLsbD_pack]
  simp [show ¬ 12 + i < 10 by omega, show ¬ 12 + i < 11 by omega, show ¬ 12 + i < 12 by omega,
    BitVec.getLsbD_eq_getElem hi]

@[simp] theorem cmdFlag_pack : cmdFlag (packCommand op f x) = f := by
  unfold cmdFlag
  ext i hi
  obtain rfl : i = 0 := by omega
  rw [BitVec.getElem_extractLsb', getLsbD_pack]
  simp [BitVec.getLsbD_eq_getElem]

@[simp] theorem cmdReserved_pack : cmdReserved (packCommand op f x) = 0#1 := by
  unfold cmdReserved
  ext i hi
  obtain rfl : i = 0 := by omega
  rw [BitVec.getElem_extractLsb', getLsbD_pack]
  simp

/-- A field below bit 10 of a packed command word is that field of its operand. -/
theorem extractLsb'_pack (start len : Nat) (h : start + len ≤ 10) :
    (packCommand op f x).extractLsb' start len = x.extractLsb' start len := by
  ext i hi
  rw [BitVec.getElem_extractLsb', getLsbD_pack, if_pos (by omega), BitVec.getElem_extractLsb']

@[simp] theorem cmdWord_pack : cmdWord (packCommand op f x) = x := by
  unfold cmdWord
  rw [extractLsb'_pack op f x 0 10 (by omega), BitVec.extractLsb'_eq_self]

end

end Sys2Proof
end

