-- ==== Sys2Proof/Laws/State.lean ====
section
/-! SUPPORT. One lemma per field and update of State, each true by rfl, so that no proof unfolds a record update. -/

namespace Sys2Proof.Machine

section
variable (s : State) (d : Disparity) (p : Parity) (c : FaultCode) (w : ResponseWord) (e : HostEvent)

@[simp] theorem setEncRd_encRd : (s.setEncRd d).encRd = some d := rfl
@[simp] theorem setEncRd_decRd : (s.setEncRd d).decRd = s.decRd := rfl
@[simp] theorem setEncRd_parity : (s.setEncRd d).parity = s.parity := rfl
@[simp] theorem setEncRd_fault : (s.setEncRd d).fault = s.fault := rfl
@[simp] theorem setEncRd_events : (s.setEncRd d).events = s.events := rfl
@[simp] theorem setEncRd_responses : (s.setEncRd d).responses = s.responses := rfl

@[simp] theorem setDecRd_encRd : (s.setDecRd d).encRd = s.encRd := rfl
@[simp] theorem setDecRd_decRd : (s.setDecRd d).decRd = some d := rfl
@[simp] theorem setDecRd_parity : (s.setDecRd d).parity = s.parity := rfl
@[simp] theorem setDecRd_fault : (s.setDecRd d).fault = s.fault := rfl
@[simp] theorem setDecRd_events : (s.setDecRd d).events = s.events := rfl
@[simp] theorem setDecRd_responses : (s.setDecRd d).responses = s.responses := rfl

@[simp] theorem setParity_encRd : (s.setParity p).encRd = s.encRd := rfl
@[simp] theorem setParity_decRd : (s.setParity p).decRd = s.decRd := rfl
@[simp] theorem setParity_parity : (s.setParity p).parity = some p := rfl
@[simp] theorem setParity_fault : (s.setParity p).fault = s.fault := rfl
@[simp] theorem setParity_events : (s.setParity p).events = s.events := rfl
@[simp] theorem setParity_responses : (s.setParity p).responses = s.responses := rfl

@[simp] theorem setFault_encRd : (s.setFault c).encRd = s.encRd := rfl
@[simp] theorem setFault_decRd : (s.setFault c).decRd = s.decRd := rfl
@[simp] theorem setFault_parity : (s.setFault c).parity = s.parity := rfl
@[simp] theorem setFault_fault : (s.setFault c).fault = some c := rfl
@[simp] theorem setFault_events : (s.setFault c).events = s.events := rfl
@[simp] theorem setFault_responses : (s.setFault c).responses = s.responses := rfl

@[simp] theorem answered_encRd : (s.answered w).encRd = s.encRd := rfl
@[simp] theorem answered_decRd : (s.answered w).decRd = s.decRd := rfl
@[simp] theorem answered_parity : (s.answered w).parity = s.parity := rfl
@[simp] theorem answered_fault : (s.answered w).fault = s.fault := rfl
@[simp] theorem answered_events : (s.answered w).events = s.events := rfl
@[simp] theorem answered_responses : (s.answered w).responses = s.responses ++ [w] := rfl

@[simp] theorem hostReset_encRd : (hostReset s).encRd = none := rfl
@[simp] theorem hostReset_decRd : (hostReset s).decRd = none := rfl
@[simp] theorem hostReset_parity : (hostReset s).parity = none := rfl
@[simp] theorem hostReset_fault : (hostReset s).fault = none := rfl
@[simp] theorem hostReset_events : (hostReset s).events = s.events := rfl
@[simp] theorem hostReset_responses : (hostReset s).responses = s.responses := rfl

@[simp] theorem withNextEvent_encRd : (s.withNextEvent e).encRd = s.encRd := rfl
@[simp] theorem withNextEvent_decRd : (s.withNextEvent e).decRd = s.decRd := rfl
@[simp] theorem withNextEvent_parity : (s.withNextEvent e).parity = s.parity := rfl
@[simp] theorem withNextEvent_fault : (s.withNextEvent e).fault = s.fault := rfl
@[simp] theorem withNextEvent_events : (s.withNextEvent e).events = e :: s.events := rfl
@[simp] theorem withNextEvent_responses : (s.withNextEvent e).responses = s.responses := rfl

end

end Sys2Proof.Machine
end

