-- ==== Sys2Proof/Laws/Ops.lean ====
section
/-! SUPPORT. For each shared operation, what it does, said once. -/

namespace Sys2Proof.Machine

/-! ### Disparities and words -/

@[simp] theorem flipRd_flipRd (d : Disparity) : flipRd (flipRd d) = d := by cases d <;> rfl

theorem flipRd_ne (d : Disparity) : flipRd d ≠ d := by cases d <;> decide

/-- The two disparities are `r` and `flipRd r`. -/
theorem eq_or_eq_flipRd (r d : Disparity) : d = r ∨ d = flipRd r := by cases r <;> cases d <;> decide

@[simp] theorem ofBit_bit (d : Disparity) : Disparity.ofBit d.bit = d := by cases d <;> rfl

theorem comp10_eq_not (w : ChannelWord) : comp10 w = ~~~w := by
  unfold comp10
  rw [show (0x3FF#10 : ChannelWord) = BitVec.allOnes 10 from rfl, BitVec.and_allOnes]

@[simp] theorem comp10_comp10 (w : ChannelWord) : comp10 (comp10 w) = w := by
  simp [comp10_eq_not]

/-! ### Response words -/

/-- Every bit of a packed response. -/
theorem getLsbD_packResponse (st : Status) (d : BitVec 1) (x : BitVec 10) (i : Nat) :
    (packResponse st d x).getLsbD i =
      if i < 10 then x.getLsbD i else if i < 11 then d.getLsbD (i - 10) else if i < 13 then false
      else st.code.getLsbD (i - 13) := by
  unfold packResponse
  simp only [BitVec.getLsbD_append]
  by_cases h1 : i < 10
  · simp [h1]
  · by_cases h2 : i < 11
    · simp [h1, h2, show i - 10 < 1 by omega]
    · have h3 : ¬ i - 10 < 1 := by omega
      by_cases h4 : i < 13
      · simp [h1, h2, h3, h4, show i - 10 - 1 < 2 by omega]
      · have h5 : ¬ i - 10 - 1 < 2 := by omega
        simp [h1, h2, h3, h4, h5, show i - 10 - 1 - 2 = i - 13 by omega]

@[simp] theorem responseStatus_pack (st : Status) (d : BitVec 1) (x : BitVec 10) :
    responseStatus (packResponse st d x) = st.code := by
  unfold responseStatus
  ext i hi
  rw [BitVec.getElem_extractLsb', getLsbD_packResponse]
  simp [show ¬ 13 + i < 10 by omega, show ¬ 13 + i < 11 by omega, show ¬ 13 + i < 13 by omega,
    BitVec.getLsbD_eq_getElem hi]

@[simp] theorem responseD_pack (st : Status) (d : BitVec 1) (x : BitVec 10) :
    responseD (packResponse st d x) = d := by
  unfold responseD
  ext i hi
  obtain rfl : i = 0 := by omega
  rw [BitVec.getElem_extractLsb', getLsbD_packResponse]
  simp [BitVec.getLsbD_eq_getElem]

@[simp] theorem responseReserved_pack (st : Status) (d : BitVec 1) (x : BitVec 10) :
    responseReserved (packResponse st d x) = 0#2 := by
  unfold responseReserved
  ext i hi
  rw [BitVec.getElem_extractLsb', getLsbD_packResponse]
  simp [show ¬ 11 + i < 10 by omega, show ¬ 11 + i < 11 by omega, show 11 + i < 13 by omega]

@[simp] theorem responseData_pack (st : Status) (d : BitVec 1) (x : BitVec 10) :
    responseData (packResponse st d x) = x := by
  unfold responseData
  ext i hi
  rw [BitVec.getElem_extractLsb', getLsbD_packResponse]
  simp [hi]

/-- Every response a command can give is legal: a FAULT response carries a code of R213. -/
theorem legalResponse_pack (st : Status) (d : BitVec 1) (x : BitVec 10) (h : st ≠ .fault) :
    legalResponse (packResponse st d x) := by
  refine ⟨by simp, .inl ?_⟩
  cases st <;> simp [Status.code] at h ⊢

theorem legalResponse_fault (c : FaultCode) : legalResponse (faultResponse c) := by
  refine ⟨by simp [faultResponse], .inr ⟨by simp [faultResponse, Status.code], by simp [faultResponse], ?_, ?_⟩⟩ <;>
    cases c <;> simp [faultResponse, FaultCode.code]

/-! ### Answers, faults, the gate and the reads -/

@[simp] theorem andThen_next {σ τ : Type} (s : σ) (k : σ → Host.Outcome τ Fault Refusal) :
    andThen (.next s) k = k s := rfl

/-- If two programs in a row answer a next state, each of them did. -/
theorem andThen_eq_next {σ τ : Type} {a : Host.Outcome σ Fault Refusal} {k : σ → Host.Outcome τ Fault Refusal} {t : τ}
    (h : andThen a k = .next t) : ∃ s, a = .next s ∧ k s = .next t := by
  cases a with
  | next s => exact ⟨s, rfl, h⟩
  | fault r => cases h
  | refused r => cases h

@[simp] theorem respond_eq (st : Status) (d : BitVec 1) (x : BitVec 10) (s : State) :
    respond st d x s = .next (s.answered (packResponse st d x)) := rfl

@[simp] theorem takeFault_eq (c : FaultCode) (s : State) :
    takeFault c s = .next ((s.setFault c).answered (faultResponse c)) := rfl

@[simp] theorem answerFaulted_eq (c : FaultCode) (s : State) :
    answerFaulted c s = .next (s.answered (faultResponse c)) := rfl

theorem gate_of_none {s : State} (h : s.fault = none) (k : State → Answer) : gate s k = k s := by
  simp [gate, h]

theorem gate_of_some {s : State} {c : FaultCode} (h : s.fault = some c) (k : State → Answer) :
    gate s k = .next (s.answered (faultResponse c)) := by
  simp [gate, h]

/-- All the gate can do: answer from the faulted block, or run the command. -/
theorem gate_cases (s : State) (k : State → Answer) :
    (∃ c, s.fault = some c ∧ gate s k = .next (s.answered (faultResponse c))) ∨ (s.fault = none ∧ gate s k = k s) := by
  cases h : s.fault with
  | some c => exact .inl ⟨c, rfl, gate_of_some h k⟩
  | none => exact .inr ⟨rfl, gate_of_none h k⟩

theorem readEncRd_cases (s : State) (k : Disparity → Answer) :
    (∃ r, s.encRd = some r ∧ readEncRd s k = k r) ∨
      (s.encRd = none ∧ readEncRd s k = .next ((s.setFault .encRdUnset).answered (faultResponse .encRdUnset))) := by
  cases h : s.encRd with
  | some r => exact .inl ⟨r, rfl, by simp [readEncRd, h]⟩
  | none => exact .inr ⟨rfl, by simp [readEncRd, h]⟩

theorem readDecRd_cases (s : State) (k : Disparity → Answer) :
    (∃ r, s.decRd = some r ∧ readDecRd s k = k r) ∨
      (s.decRd = none ∧ readDecRd s k = .next ((s.setFault .decRdUnset).answered (faultResponse .decRdUnset))) := by
  cases h : s.decRd with
  | some r => exact .inl ⟨r, rfl, by simp [readDecRd, h]⟩
  | none => exact .inr ⟨rfl, by simp [readDecRd, h]⟩

theorem readParity_cases (s : State) (k : Parity → Answer) :
    (∃ p, s.parity = some p ∧ readParity s k = k p) ∨
      (s.parity = none ∧ readParity s k = .next ((s.setFault .rsUnset).answered (faultResponse .rsUnset))) := by
  cases h : s.parity with
  | some p => exact .inl ⟨p, rfl, by simp [readParity, h]⟩
  | none => exact .inr ⟨rfl, by simp [readParity, h]⟩

/-! ### The symbol search -/

@[simp] theorem mem_allBytes (b : Byte) : b ∈ allBytes := by
  simp only [allBytes, List.mem_map, List.mem_range]
  exact ⟨b.toNat, b.isLt, by simp⟩

/-- A search that hits names an entry of the row that carries the word, and that entry's next disparity. -/
theorem romFindRow_sound {T : Rom.SymbolTable} {r : Disparity} {w : ChannelWord} {b : Byte} {n : Disparity}
    (h : romFindRow T r w = some (b, n)) : Rom.entryWord (T r b) = w ∧ n = Rom.entryNext (T r b) := by
  simp only [romFindRow, Option.map_eq_some_iff, Prod.mk.injEq] at h
  obtain ⟨c, hc, rfl, rfl⟩ := h
  exact ⟨by simpa using List.find?_some hc, rfl⟩

/-- All the search of both rows can answer: a hit of row NEG, a hit of row POS after a miss of row NEG, or two misses. -/
theorem romFind_cases (T : Rom.SymbolTable) (w : ChannelWord) :
    (∃ b n, romFindRow T .neg w = some (b, n) ∧ romFind T w = some (.neg, b, n)) ∨
      (romFindRow T .neg w = none ∧ ∃ b n, romFindRow T .pos w = some (b, n) ∧ romFind T w = some (.pos, b, n)) ∨
      (romFindRow T .neg w = none ∧ romFindRow T .pos w = none ∧ romFind T w = none) := by
  unfold romFind
  cases h₁ : romFindRow T .neg w with
  | some x => exact .inl ⟨x.1, x.2, rfl, rfl⟩
  | none =>
    cases h₂ : romFindRow T .pos w with
    | some x => exact .inr (.inl ⟨rfl, x.1, x.2, rfl, rfl⟩)
    | none => exact .inr (.inr ⟨rfl, rfl, rfl⟩)

end Sys2Proof.Machine
end

