-- ==== Sys2Proof/Laws/Exec.lean ====
section
/-! SUPPORT. What a command can do, said once for all thirteen: later proofs cite `exec_cases` instead of unfolding the meanings. -/

namespace Sys2Proof.Machine

/-- The statuses R78 lets a command complete with. -/
def MayAnswer (i : Instr) : Status → Prop
  | .ok => True
  | .notFound =>
    (∃ c w, i = .decSymbol c w) ∨ (∃ w, i = .decDisparityOf w) ∨ (∃ w, i = .decNextDisparity w) ∨ ∃ w, i = .decValidate w
  | .rdError => ∃ w, i = .decValidate w
  | .sync => ∃ w, i = .decValidate w
  | .rdErrorSync => ∃ w, i = .decValidate w
  | .fault => False

/-- Command `i` completes on `s`: it answers `packResponse st d x` from `t`, which differs from `s` at most in the field the command may
write (R33), and holds a value wherever `s` does. -/
structure CompletesAs (i : Instr) (s t : State) (st : Status) (d : BitVec 1) (x : BitVec 10) : Prop where
  answer : exec i s = .next (t.answered (packResponse st d x))
  status : MayAnswer i st
  fault : t.fault = none
  events : t.events = s.events
  responses : t.responses = s.responses
  encRd : writesEncRd i = false → t.encRd = s.encRd
  decRd : writesDecRd i = false → t.decRd = s.decRd
  parity : writesParity i = false → t.parity = s.parity
  keepsEncRd : s.encRd.isSome → t.encRd.isSome
  keepsDecRd : s.decRd.isSome → t.decRd.isSome
  keepsParity : s.parity.isSome → t.parity.isSome

/-- Every command passes the fault gate first (R218 step 1, R220). -/
theorem exec_of_fault {s : State} {c : FaultCode} (hf : s.fault = some c) (i : Instr) :
    exec i s = .next (s.answered (faultResponse c)) := by
  cases i <;>
    simp [exec, execEncByte, execEncEof, execEncSetRd, execEncGetRd, execDecSymbol, execDecDisparityOf, execDecNextDisparity,
      execDecValidate, execDecSetRd, execDecGetRd, execRsReset, execRsUpdate, execRsRead, gate_of_some hf]

/-- A command that reads an unset field takes that field's fault (R218 step 3). -/
theorem exec_of_unset {i : Instr} {s : State} {c : FaultCode} (hf : s.fault = none) (hu : unsetFault i s = some c) :
    exec i s = .next ((s.setFault c).answered (faultResponse c)) := by
  cases he : s.encRd <;> cases hd : s.decRd <;> cases hp : s.parity <;> cases i <;>
    simp [unsetFault, readsEncRd, readsDecRd, readsParity, he, hd, hp] at hu <;> subst hu <;>
    simp [exec, execEncByte, execEncEof, execEncGetRd, execDecValidate, execDecGetRd, execRsUpdate, execRsRead, gate_of_none hf,
      readEncRd, readDecRd, readParity, he, hd, hp]

theorem encRd_of_reads {i : Instr} {s : State} (h : readsEncRd i = true) (hu : unsetFault i s = none) : ∃ r, s.encRd = some r := by
  cases he : s.encRd with
  | none => simp [unsetFault, h, he] at hu
  | some r => exact ⟨r, rfl⟩

theorem decRd_of_reads {i : Instr} {s : State} (h : readsDecRd i = true) (hu : unsetFault i s = none) : ∃ r, s.decRd = some r := by
  cases he : s.decRd with
  | none => cases i <;> simp [readsDecRd] at h <;> simp [unsetFault, readsEncRd, readsDecRd, he] at hu
  | some r => exact ⟨r, rfl⟩

theorem parity_of_reads {i : Instr} {s : State} (h : readsParity i = true) (hu : unsetFault i s = none) : ∃ p, s.parity = some p := by
  cases he : s.parity with
  | none => cases i <;> simp [readsParity] at h <;> simp [unsetFault, readsEncRd, readsDecRd, readsParity, he] at hu
  | some p => exact ⟨p, rfl⟩

/-- A command that finds no fault recorded and no field it reads unset completes (R218 step 4). -/
theorem exec_completes {i : Instr} {s : State} (hf : s.fault = none) (hu : unsetFault i s = none) :
    ∃ t st d x, CompletesAs i s t st d x := by
  cases i with
  | encByte b =>
    obtain ⟨r, he⟩ := encRd_of_reads rfl hu
    exact ⟨s.setEncRd (Rom.entryNext (Rom.SYM r b)), .ok, _, _,
      by simp only [exec, execEncByte, gate_of_none hf, readEncRd, he]; rfl, trivial, hf, rfl, rfl, nofun, fun _ => rfl, fun _ => rfl,
          fun _ => rfl, id, id⟩
  | encEof =>
    obtain ⟨r, he⟩ := encRd_of_reads rfl hu
    exact ⟨s.setEncRd (flipRd r), .ok, _, _,
      by simp only [exec, execEncEof, gate_of_none hf, readEncRd, he]; rfl, trivial, hf, rfl, rfl, nofun, fun _ => rfl, fun _ => rfl,
          fun _ => rfl, id, id⟩
  | encSetRd d =>
    exact ⟨s.setEncRd d, .ok, _, _,
      by simp only [exec, execEncSetRd, gate_of_none hf]; rfl, trivial, hf, rfl, rfl, nofun, fun _ => rfl, fun _ => rfl,
          fun _ => rfl, id, id⟩
  | encGetRd =>
    obtain ⟨r, he⟩ := encRd_of_reads rfl hu
    exact ⟨s, .ok, _, _,
      by simp only [exec, execEncGetRd, gate_of_none hf, readEncRd, he]; rfl, trivial, hf, rfl, rfl, fun _ => rfl, fun _ => rfl, fun _ => rfl,
          id, id, id⟩
  | decSymbol c w =>
    cases h : romFind Rom.SYMBOL_TABLE (if c then comp10 w else w) with
    | none =>
      exact ⟨s, .notFound, _, _, by simp only [exec, execDecSymbol, gate_of_none hf, h]; rfl, .inl ⟨c, w, rfl⟩, hf, rfl, rfl,
        fun _ => rfl, fun _ => rfl, fun _ => rfl,
          id, id, id⟩
    | some x =>
      exact ⟨s, .ok, _, _, by simp only [exec, execDecSymbol, gate_of_none hf, h]; rfl, trivial, hf, rfl, rfl,
        fun _ => rfl, fun _ => rfl, fun _ => rfl,
          id, id, id⟩
  | decDisparityOf w =>
    cases h : romFind Rom.SYMBOL_TABLE w with
    | none =>
      exact ⟨s, .notFound, _, _, by simp only [exec, execDecDisparityOf, gate_of_none hf, h]; rfl, .inr (.inl ⟨w, rfl⟩), hf, rfl, rfl,
        fun _ => rfl, fun _ => rfl, fun _ => rfl,
          id, id, id⟩
    | some x =>
      exact ⟨s, .ok, _, _, by simp only [exec, execDecDisparityOf, gate_of_none hf, h]; rfl, trivial, hf, rfl, rfl,
        fun _ => rfl, fun _ => rfl, fun _ => rfl,
          id, id, id⟩
  | decNextDisparity w =>
    cases h : romFind Rom.SYMBOL_TABLE w with
    | none =>
      exact ⟨s, .notFound, _, _, by simp only [exec, execDecNextDisparity, gate_of_none hf, h]; rfl, .inr (.inr (.inl ⟨w, rfl⟩)), hf,
        rfl, rfl, fun _ => rfl, fun _ => rfl, fun _ => rfl,
          id, id, id⟩
    | some x =>
      exact ⟨s, .ok, _, _, by simp only [exec, execDecNextDisparity, gate_of_none hf, h]; rfl, trivial, hf, rfl, rfl,
        fun _ => rfl, fun _ => rfl, fun _ => rfl,
          id, id, id⟩
  | decValidate w =>
    obtain ⟨r, he⟩ := decRd_of_reads rfl hu
    have hx : exec (.decValidate w) s = execDecValidate w s := rfl
    simp only [execDecValidate, gate_of_none hf, readDecRd, he] at hx
    split at hx
    · exact ⟨s.setDecRd _, .ok, _, _, hx, trivial, hf, rfl, rfl, fun _ => rfl, nofun, fun _ => rfl,
          id, fun _ => rfl, id⟩
    · split at hx
      · exact ⟨s.setDecRd _, .rdError, _, _, hx, ⟨w, rfl⟩, hf, rfl, rfl, fun _ => rfl, nofun, fun _ => rfl,
          id, fun _ => rfl, id⟩
      · split at hx
        · exact ⟨s.setDecRd _, .sync, _, _, hx, ⟨w, rfl⟩, hf, rfl, rfl, fun _ => rfl, nofun, fun _ => rfl,
          id, fun _ => rfl, id⟩
        · split at hx
          · exact ⟨s.setDecRd _, .rdErrorSync, _, _, hx, ⟨w, rfl⟩, hf, rfl, rfl, fun _ => rfl, nofun, fun _ => rfl,
          id, fun _ => rfl, id⟩
          · exact ⟨s, .notFound, _, _, hx, .inr (.inr (.inr ⟨w, rfl⟩)), hf, rfl, rfl, fun _ => rfl, nofun, fun _ => rfl,
          id, id, id⟩
  | decSetRd d =>
    exact ⟨s.setDecRd d, .ok, _, _,
      by simp only [exec, execDecSetRd, gate_of_none hf]; rfl, trivial, hf, rfl, rfl, fun _ => rfl, nofun, fun _ => rfl,
          id, fun _ => rfl, id⟩
  | decGetRd =>
    obtain ⟨r, he⟩ := decRd_of_reads rfl hu
    exact ⟨s, .ok, _, _,
      by simp only [exec, execDecGetRd, gate_of_none hf, readDecRd, he]; rfl, trivial, hf, rfl, rfl, fun _ => rfl, fun _ => rfl, fun _ => rfl,
          id, id, id⟩
  | rsReset =>
    exact ⟨s.setParity zeroParity, .ok, _, _,
      by simp only [exec, execRsReset, gate_of_none hf]; rfl, trivial, hf, rfl, rfl, fun _ => rfl, fun _ => rfl, nofun,
          id, id, fun _ => rfl⟩
  | rsUpdate b =>
    obtain ⟨p, he⟩ := parity_of_reads rfl hu
    exact ⟨s.setParity (rsStep p b), .ok, _, _,
      by simp only [exec, execRsUpdate, gate_of_none hf, readParity, he]; rfl, trivial, hf, rfl, rfl, fun _ => rfl, fun _ => rfl, nofun,
          id, id, fun _ => rfl⟩
  | rsRead k =>
    obtain ⟨p, he⟩ := parity_of_reads rfl hu
    exact ⟨s, .ok, _, _,
      by simp only [exec, execRsRead, gate_of_none hf, readParity, he]; rfl, trivial, hf, rfl, rfl, fun _ => rfl, fun _ => rfl, fun _ => rfl,
          id, id, id⟩

/-- The three ways a command ends: from the faulted block, in the fault of an unset field, or in completion. -/
theorem exec_cases (i : Instr) (s : State) :
    (∃ c, s.fault = some c ∧ exec i s = .next (s.answered (faultResponse c))) ∨
      (s.fault = none ∧ ∃ c, unsetFault i s = some c ∧ exec i s = .next ((s.setFault c).answered (faultResponse c))) ∨
      (s.fault = none ∧ unsetFault i s = none ∧ ∃ t st d x, CompletesAs i s t st d x) := by
  cases hf : s.fault with
  | some c => exact .inl ⟨c, rfl, exec_of_fault hf i⟩
  | none =>
    cases hu : unsetFault i s with
    | some c => exact .inr (.inl ⟨rfl, c, rfl, exec_of_unset hf hu⟩)
    | none => exact .inr (.inr ⟨rfl, rfl, exec_completes hf hu⟩)

/-- Completions of two commands or runs agree: a next state is what it was. -/
theorem next_injective {σ : Type} {a b : σ} (h : (Host.Outcome.next a : Host.Outcome σ Fault Refusal) = .next b) : a = b := by
  injection h

end Sys2Proof.Machine
end

