-- ==== Sys2Proof/Laws/PerInstr.lean ====
section
/-! SUPPORT. Statements about every command as syntax, one lemma per constructor: the encoding of a command selects exactly one row of
the opcode map, the row of its own mnemonic (spec/30_encoding.md R73: "the rows are disjoint"). -/

-- One kernel evaluation at a time: many at once exhaust the threads of a bounded process.
set_option Elab.async false

namespace Sys2Proof.Laws.SelectsOwnRow

/-- The mnemonics of the rows that the command's word selects are its own mnemonic alone. -/
def Statement (i : Instr) : Prop := (selectedRows (encode i)).map OpcodeRow.mnemonic = [i.mnemonic]

theorem encByte (byte : Byte) : Statement (.encByte byte) := by
  unfold Statement; revert byte; decide +kernel

theorem encEof : Statement .encEof := by unfold Statement; decide +kernel

theorem encSetRd (d : Disparity) : Statement (.encSetRd d) := by
  unfold Statement; cases d <;> decide +kernel

theorem encGetRd : Statement .encGetRd := by unfold Statement; decide +kernel

theorem decSymbol (c : Bool) (word : ChannelWord) : Statement (.decSymbol c word) := by
  unfold Statement; revert word; cases c <;> decide +kernel

theorem decDisparityOf (word : ChannelWord) : Statement (.decDisparityOf word) := by
  unfold Statement; revert word; decide +kernel

theorem decNextDisparity (word : ChannelWord) : Statement (.decNextDisparity word) := by
  unfold Statement; revert word; decide +kernel

theorem decValidate (word : ChannelWord) : Statement (.decValidate word) := by
  unfold Statement; revert word; decide +kernel

theorem decSetRd (d : Disparity) : Statement (.decSetRd d) := by
  unfold Statement; cases d <;> decide +kernel

theorem decGetRd : Statement .decGetRd := by unfold Statement; decide +kernel

theorem rsReset : Statement .rsReset := by unfold Statement; decide +kernel

theorem rsUpdate (byte : Byte) : Statement (.rsUpdate byte) := by
  unfold Statement; revert byte; decide +kernel

theorem rsRead (idx : BitVec 5) : Statement (.rsRead idx) := by
  unfold Statement; revert idx; decide +kernel

end Sys2Proof.Laws.SelectsOwnRow
end

