-- ==== Sys2Proof/Laws/ReedSolomon.lean ====
section
/-! SUPPORT. The parity register's operations, element by element. -/

-- One kernel evaluation at a time: many at once exhaust the threads of a bounded process.
set_option Elab.async false

namespace Sys2Proof.Machine

@[simp] theorem xorAt_getElem (p : Parity) (k : Nat) (t : Byte) (i : Nat) (hi : i < Config.parityBytes) :
    (xorAt p k t)[i] = if k = i then p[i] ^^^ t else p[i] := by
  unfold xorAt
  split
  · next h =>
    rw [Vector.getElem_set]
    split
    · next hk => subst hk; rfl
    · rfl
  · next h =>
    have : k ≠ i := by omega
    simp [this]

@[simp] theorem shiftIn_getElem (p : Parity) (last : Byte) (i : Nat) (hi : i < Config.parityBytes) :
    (shiftIn p last)[i] = if h : i + 1 < Config.parityBytes then p[i + 1] else last := by
  simp [shiftIn]

@[simp] theorem zeroParity_getElem (i : Nat) (hi : i < Config.parityBytes) : zeroParity[i] = 0#8 := by
  simp [zeroParity]

/-- The coefficient that R175 applies to byte `i`: `min i (32 - i)`, by the palindrome (R50). -/
def termIndex (i : Nat) : Fin Config.halfGeneratorLength := ⟨min i (32 - i), show min i (32 - i) < 17 by omega⟩

/-- One pass of the loop touches the two bytes of its coefficient. -/
theorem xorPair_getElem (fb : Byte) (p : Parity) (j : Fin Config.halfGeneratorLength) (h₁ : 1 ≤ j.val) (h₂ : j.val ≤ 15) (i : Nat)
    (hi : i < Config.parityBytes) :
    (xorPair fb p j)[i] = if termIndex i = j then p[i] ^^^ feedbackTerm fb (termIndex i) else p[i] := by
  have hi' : i < 32 := hi
  have hj : termIndex i = j ↔ (j.val = i ∨ 32 - j.val = i) := by
    rw [Fin.ext_iff]
    show min i (32 - i) = j.val ↔ _
    omega
  unfold xorPair
  simp only [xorAt_getElem]
  by_cases h : termIndex i = j
  · rw [if_pos h, h]
    obtain h' | h' := hj.1 h
    · rw [if_neg (show ¬ 32 - j.val = i by omega), if_pos h']
    · rw [if_pos h', if_neg (show ¬ j.val = i by omega)]
  · rw [if_neg h, if_neg fun x => h (hj.2 (.inr x)), if_neg fun x => h (hj.2 (.inl x))]

/-- The loop over distinct coefficients from 1 to 15 adds each byte's term once. -/
theorem foldl_xorPair_getElem (fb : Byte) (js : List (Fin Config.halfGeneratorLength)) (hnd : js.Nodup)
    (hr : ∀ j ∈ js, 1 ≤ j.val ∧ j.val ≤ 15) (p : Parity) (i : Nat) (hi : i < Config.parityBytes) :
    (js.foldl (xorPair fb) p)[i] = if termIndex i ∈ js then p[i] ^^^ feedbackTerm fb (termIndex i) else p[i] := by
  induction js generalizing p with
  | nil => simp
  | cons j js ih =>
    have hj := hr j (by simp)
    rw [List.foldl_cons, ih (List.nodup_cons.1 hnd).2 (fun k hk => hr k (by simp [hk])), xorPair_getElem fb p j hj.1 hj.2]
    by_cases h : termIndex i = j
    · have hn : termIndex i ∉ js := h ▸ (List.nodup_cons.1 hnd).1
      rw [if_neg hn, if_pos h, if_pos (by simp [h])]
    · by_cases hm : termIndex i ∈ js <;> simp [h, hm]

/-- R175's XORs, byte by byte: every byte but `p[0]` takes the term of its coefficient once. -/
theorem xorFeedback_getElem (fb : Byte) (p : Parity) (i : Nat) (hi : i < Config.parityBytes) :
    (xorFeedback fb p)[i] = if i = 0 then p[i] else p[i] ^^^ feedbackTerm fb (termIndex i) := by
  have hi' : i < 32 := hi
  have hmem : termIndex i ∈ pairIndices ↔ i ≠ 0 ∧ i ≠ 16 := by interval_cases i <;> decide
  unfold xorFeedback
  rw [xorAt_getElem, foldl_xorPair_getElem fb pairIndices (by decide) (by decide)]
  by_cases h0 : i = 0
  · rw [if_neg (by omega), if_neg fun h => (hmem.1 h).1 h0, if_pos h0]
  · by_cases h16 : 16 = i
    · subst h16
      rw [if_pos rfl, if_neg (by simp [hmem]), if_neg (by omega)]
      rfl
    · rw [if_neg h16, if_pos (hmem.2 ⟨h0, fun h => h16 h.symm⟩), if_neg h0]

/-- The coefficient of a byte's term is the full generator's (R50). -/
theorem GENPOLY_termIndex (i : Nat) (hi : i ≤ 32) : Rom.GENPOLY (termIndex i) = Rom.fullGenerator i := by
  unfold Rom.fullGenerator
  split
  · exact congrArg Rom.GENPOLY (Fin.ext (show min i (32 - i) = i by omega))
  · exact congrArg Rom.GENPOLY (Fin.ext (show min i (32 - i) = min (32 - i) 16 by omega))

end Sys2Proof.Machine
end

