-- ==== Sys2Proof/Laws/Rom.lean ====
section
/-! SUPPORT. The read-only tables packed into one number each, with the entry of index 0 in the least significant bits, and the proofs
that they are the tables: the kernel reads an entry of a packed table in one shift, so facts about all entries check faster on them. -/

-- One kernel evaluation at a time: many at once exhaust the threads of a bounded process.
set_option Elab.async false

namespace Sys2Proof.Rom

/-- Row NEG, 12 bits an entry. -/
def packedNeg : Nat :=
  0x2b11e12e14ee36156e66e3313a15ae6ae4b772e5376371b11715ce6ce4de74e55e65e39178e59e69e35171e2d11d12716b65e66e60e67661662667367a61a62a60b63261362365b65761c62c60d63461562567963861962967563166d65d66766ba5ea6ea0ea76a16a26a73a7aa1aa2aa0ba32a13a23a5ba57a1ca2ca0da34a15a25a79a38a19a29a75a31a6da5da67a2b21e22e24ed36256d66d3323a25ad6ad4bd72d53d63d1b21725cd6cd4dd74d55d65d39278d59d69d35271d2d21d22726b35e36e30ec76316c26c7337a31ac2ac0bc32c13c23c5b35731cc2cc0dc34c15c25c79338c19c29c75331c6d35d36736b55e56e50e57651652657357a51a52a50b53251352355b55751c52c50d53451552557953851952957553156d55d56756b95e96e90e97691692697397a91a92a90b93291392395b95791c92c90d93491592597993891992997593196d95d96792b41e42e44eb36456b66b3343a45ab6ab4bb72b53b63b1b41745cb6cb4db74b55b65b39478b59b69b35471b2d41d4274

/-- Row POS, 12 bits an entry. -/
def packedPos : Nat :=
  0x54e61e51e0e149e1612614ce45e1a12a10b132113123164e68e1c82c80d134815125146e0711912914ae31152e62e58e1462161164e60965666660c60565a66a64b67265366362462865c66c64d67465566560664765966960a671612622618614a21a11a4ea09a56a66a0ca05a5aa6aa4ba72a53a63a24a28a5ca6ca4da74a55a65a06a47a59a69a0aa71a12a22a18a54d61d51d0e249d1622624cd45d1a22a20b232213223264d68d1c22c20d234215225246d0721922924ad31252d62d58d14c21c11c4e309c5636630cc05c5a36a34b372353363324c28c5c36c34d374355365306c4735936930ac71312c22c18c1452151154e50955656650c50555a56a54b57255356352452855c56c54d57455556550654755956950a57151252251851492191194e90995696690c90595a96a94b97295396392492895c96c94d97495596590694795996990a971912922918954b61b51b0e449b1642644cb45b1a42a40b432413423464b68b1c42c40d434415425446b0741942944ab31452b62b58b

/-- `ALPHA_TO`, 8 bits an entry. -/
def packedAlpha : Nat :=
  0xc3a251ebb65bee77f87c3e1fcc6633da6df5b99f8c4623d269f7b85c2e17c8643219cfa45229d7a8542a15c9a79048241209c7a05028140a05c1a39249e7b0582c160bc663f279ffbc5e2fd46a35d9af944a25d1ab964be673fa7dfdbd9d8d8581838241e3b259efb45a2dd5a99788442211cba653ea75f9bf9c4e27d068341a0dc5a1938a45e1b39a4de5b19b8e47e070381c0e07c06030180c0603c261f3ba5dedb5998f844221d3aa55e9b7984c2613ca65f1bb9e4fe47239dfac562bd66bf67bfe7ffc7e3fdc6e37d86c361bce67f0783c1e0fc46231dbae57e8743a1dcda5918b8643e271fbbe5fec763bde6ff47a3dddad9589878040201008040201

/-- `INDEX_OF`, 8 bits an entry. -/
def packedIndex : Nat :=
  0xb73ca33a17a587f6e53eed0f60b94b2e97f85d14fb895323c1a774479a19786f44110c3726efb034d84093b356e7ab82dc301ff28c4dd3e0ccbb7d29fe62c5698616a2b64a5fece452fa5c96779973c0af250b43aa5592d7d28b1edbc4fd7ccbeb49a18572765b5191a90aae7bc31dd15a71a0ea1c7a0990081b9f599d9c9e073b39a4f53d0eb82df7138822a646186e1036ee333fb2e6812ff14cdfba28616815b55ee3f99598bf244254d68adafcca48847550a8adc2d070e9798f1a589b0638f40d2c1221456d3532b180f0de2767b4e294be41d5d9c9834faccfe88e5705f32b206c317fdd66e1bdd4c84ece8d042a6b7e65bcc7cd036a64c602630100ff

/-- `SYM[r][b]` from the packed rows. -/
def symPacked (r : Disparity) (b : Byte) : Entry :=
  BitVec.ofNat 11 ((match r with | .neg => packedNeg | .pos => packedPos) >>> (12 * b.toNat))

/-- `ALPHA_TO[i]` from the packed table. -/
def alphaPacked (i : Byte) : Byte := BitVec.ofNat 8 (packedAlpha >>> (8 * i.toNat))

/-- `INDEX_OF[v]` from the packed table. -/
def indexPacked (v : Byte) : Byte := BitVec.ofNat 8 (packedIndex >>> (8 * v.toNat))

theorem SYM_eq_symPacked : ∀ (r : Disparity) (b : Byte), SYM r b = symPacked r b := by
  intro r
  cases r <;> decide +kernel

theorem SYMBOL_TABLE_eq_symPacked : SYMBOL_TABLE = symPacked :=
  funext fun r => funext fun b => SYM_eq_symPacked r b

theorem ALPHA_TO_eq_alphaPacked : ∀ i : Byte, ALPHA_TO i = alphaPacked i := by decide +kernel

theorem INDEX_OF_eq_indexPacked : ∀ v : Byte, INDEX_OF v = indexPacked v := by decide +kernel

/-- The computed antilog ROM is the image that the spec prints. -/
theorem ALPHA_TO_eq_image (i : Byte) : ALPHA_TO i = imageAt alphaImage i :=
  have key : ∀ j : Byte, alphaPacked j = imageAt alphaImage j := by decide +kernel
  (ALPHA_TO_eq_alphaPacked i).trans (key i)

/-- The computed log ROM is the image that the spec prints. -/
theorem INDEX_OF_eq_image (v : Byte) : INDEX_OF v = imageAt indexImage v :=
  have key : ∀ u : Byte, indexPacked u = imageAt indexImage u := by decide +kernel
  (INDEX_OF_eq_indexPacked v).trans (key v)

/-- The computed generator ROM is the image that the spec prints. -/
theorem GENPOLY_eq_image : ∀ j : Fin Config.halfGeneratorLength, GENPOLY j = generatorImage[j.val] := by decide +kernel

end Sys2Proof.Rom
end

