-- ==== Sys2Proof/Tests/Slice0.lean ====
section
/-! SUPPORT. Tests of the model on single steps, their expected results taken from spec/95_test_vectors.md and the rules' own examples, the
smoke tests of WellFormed, and for each obligation with hypotheses a witness that meets them. -/

-- One kernel evaluation at a time: many at once exhaust the threads of a bounded process.
set_option Elab.async false

namespace Sys2Proof.Tests

open Sys2Proof.Machine

/-! ### WellFormed refuses each ill-formed operand (R79) -/

theorem test_byteInRange_refuses_256 : (Line.encByte 256).wellFormed = false ∧ (Line.rsUpdate 256).wellFormed = false := by decide
theorem test_channelWordInRange_refuses_1024 :
    [Line.decSym 1024, .decSymC 1024, .decDisp 1024, .decNext 1024, .decVal 1024].all (fun l => !l.wellFormed) = true := by decide
theorem test_parityIndexInRange_refuses_32 : (Line.rsRead 32).wellFormed = false := by decide
theorem test_wellFormed_accepts_the_bounds :
    [Line.encByte 255, .rsUpdate 0, .decVal 1023, .decSym 0, .rsRead 31].all Line.wellFormed = true := by decide
theorem test_assemble_line_out_of_range : (Line.encByte 256).assemble = none ∧ (Line.rsRead 32).assemble = none := by decide
theorem test_assemble_line : (Line.decSymC 0x0E3).assemble = some 0x58E3#16 := by decide
theorem test_text_of_line : (Line.encSetrd .pos).text = "enc.setrd pos" := by decide

/-! ### Decoding: one word of each row, written out bit by bit from R72 and R73 -/

theorem test_decode_encByte : decode 0b0001_00_00_00000101#16 = .ok (.encByte 0x05#8) := rfl
theorem test_decode_encEof : decode 0b0010_00_0000000000#16 = .ok .encEof := rfl
theorem test_decode_encSetRd : decode 0b0011_10_0000000000#16 = .ok (.encSetRd .pos) := rfl
theorem test_decode_encGetRd : decode 0b0100_00_0000000000#16 = .ok .encGetRd := rfl
theorem test_decode_decSymbol : decode 0b0101_10_1111111111#16 = .ok (.decSymbol true 0x3FF#10) := rfl
theorem test_decode_decDisparityOf : decode 0b0110_00_1010101010#16 = .ok (.decDisparityOf 0x2AA#10) := rfl
theorem test_decode_decNextDisparity : decode 0b0111_00_1001110101#16 = .ok (.decNextDisparity 0x275#10) := rfl
theorem test_decode_decValidate : decode 0b1000_00_1100000101#16 = .ok (.decValidate 0x305#10) := rfl
theorem test_decode_decSetRd : decode 0b1001_00_0000000000#16 = .ok (.decSetRd .neg) := rfl
theorem test_decode_decGetRd : decode 0b1010_00_0000000000#16 = .ok .decGetRd := rfl
theorem test_decode_rsReset : decode 0b1011_00_0000000000#16 = .ok .rsReset := rfl
theorem test_decode_rsUpdate : decode 0b1100_00_00_10000001#16 = .ok (.rsUpdate 0x81#8) := rfl
theorem test_decode_rsRead : decode 0b1101_00_00000_11111#16 = .ok (.rsRead 31#5) := rfl

/-- The illegal words of spec/95_test_vectors.md 2.1, each with the reason R74 gives. -/
theorem test_decode_rejects_by_name :
    decode 0x0FFF#16 = .error .reservedOpcode ∧ decode 0xE000#16 = .error .reservedOpcode ∧
    decode 0xF123#16 = .error .reservedOpcode ∧ decode 0x5400#16 = .error .reservedBitSet ∧
    decode 0x3C00#16 = .error .reservedBitSet ∧ decode 0x1800#16 = .error .flagBitSet ∧
    decode 0x8BFF#16 = .error .flagBitSet ∧ decode 0x4800#16 = .error .flagBitSet ∧
    decode 0x1100#16 = .error .operandBitsSet ∧ decode 0x2001#16 = .error .operandBitsSet ∧
    decode 0x3801#16 = .error .operandBitsSet ∧ decode 0xD020#16 = .error .operandBitsSet := by
  refine ⟨rfl, rfl, rfl, rfl, rfl, rfl, rfl, rfl, rfl, rfl, rfl, rfl⟩

theorem test_decodeTableWord : decodeTableWord 16 0xC001 = some (.rsUpdate 1#8) ∧ decodeTableWord 16 0x0000 = none := by decide

/-! ### Single steps -/

/-- An initialised block, as in spec/95_test_vectors.md 2.1: both disparities as given, an all-zero parity register, no fault. -/
def block (enc dec : Disparity) : State :=
  { State.reset with encRd := some enc, decRd := some dec, parity := some zeroParity }

/-- The next state, and the host's last response in it. -/
def nextOf (a : Answer) : Option State :=
  match a with
  | .next s => some s
  | .fault _ => none
  | .refused _ => none

/-- The response to the next event. -/
def responseTo (w : Nat) (s : State) : Option ResponseWord := (nextOf (step (s.withFetchWord 16 w))).bind fun t => t.responses.getLast?

/-- The parity register after the next event, in byte order. -/
def parityTo (w : Nat) (s : State) : Option (List Byte) :=
  (nextOf (step (s.withFetchWord 16 w))).bind fun t => t.parity.map Vector.toList

/-- 2.2: D17.7 takes the alternate A7 from NEG. -/
theorem test_encByte_alternate_A7 : responseTo 0x10F1 (block .neg .neg) = some 0x0637#16 := by decide +kernel
/-- 2.2: a word that is the same in both rows keeps POS. -/
theorem test_encByte_balanced_keeps_pos : responseTo 0x1023 (block .pos .neg) = some 0x0719#16 := by decide +kernel
/-- 2.2, ENC_EOF from POS. -/
theorem test_encEof_at_pos : responseTo 0x2000 (block .pos .neg) = some 0x0305#16 := by decide +kernel
theorem test_encEof_leaves_neg : (nextOf (exec .encEof (block .pos .neg))).map State.encRd = some (some .neg) := by decide +kernel
/-- R103's example. -/
theorem test_encSetRd_pos : responseTo 0x3800 State.reset = some 0x0400#16 := by decide +kernel
/-- R104's example. -/
theorem test_encGetRd_pos : responseTo 0x4000 (block .pos .neg) = some 0x0400#16 := by decide +kernel
/-- P3 step 17: the complement of 0x0E3 is 0x31C, byte 0x63. -/
theorem test_decSymbol_complement : responseTo 0x58E3 State.reset = some 0x0063#16 := by decide +kernel
/-- R132's example of a miss. -/
theorem test_decSymbol_miss : responseTo 0x51BB State.reset = some 0x2000#16 := by decide +kernel
/-- R133's example: 0x2AA is in both rows, row NEG is searched first. -/
theorem test_decDisparityOf_shared_word : responseTo 0x62AA State.reset = some 0x0000#16 := by decide +kernel
theorem test_decDisparityOf_pos : responseTo 0x618B State.reset = some 0x0400#16 := by decide +kernel
/-- 2.3: for 0x18A the row is POS and the next disparity NEG. -/
theorem test_decNextDisparity_differs_from_row : responseTo 0x718A State.reset = some 0x0000#16 := by decide +kernel
/-- R135's example: RD_ERROR. -/
theorem test_decValidate_rdError : responseTo 0x818B (block .neg .neg) = some 0x4400#16 := by decide +kernel
/-- 2.3: the other disparity's sync word is RD_ERROR_SYNC and leaves the disparity that word leaves. -/
theorem test_decValidate_rdErrorSync : responseTo 0x80FA (block .neg .pos) = some 0x84FA#16 := by decide +kernel
theorem test_decSetRd_neg : responseTo 0x9000 State.reset = some 0x0000#16 := by decide +kernel
theorem test_decGetRd_pos : responseTo 0xA000 (block .neg .pos) = some 0x0400#16 := by decide +kernel
theorem test_rsReset_zeroes : parityTo 0xB000 { block .neg .neg with parity := none } = some (List.replicate 32 0#8) := by decide +kernel
/-- 2.4, vector `40`: feedback 6 and coefficient 249 sum to 255, whose antilog is 01. -/
theorem test_rsUpdate_reduction_at_255 : parityTo 0xC040 (block .neg .neg) = some
    [0x01, 0x2B, 0x4F, 0x95, 0x1B, 0x4E, 0x04, 0x30, 0x57, 0x89, 0xA4, 0x3F, 0x4F, 0xD9, 0xAD, 0xA5,
     0xAD, 0xD9, 0x4F, 0x3F, 0xA4, 0x89, 0x57, 0x30, 0x04, 0x4E, 0x1B, 0x95, 0x4F, 0x2B, 0x01, 0x40] := by decide +kernel
/-- R175's corner case: the byte equals `p[0]`, so the register shifts and takes in zero. -/
theorem test_rsUpdate_sentinel_shifts : parityTo 0xC05B { block .neg .neg with parity := some (zeroParity.set 0 0x5B |>.set 1 0x7F) } =
    some (0x7F :: List.replicate 31 0x00) := by decide +kernel
/-- 2.4: after FF, index 0 reads 35. -/
theorem test_rsRead_first : responseTo 0xD000 { block .neg .neg with parity := some (rsStep zeroParity 0xFF) } = some 0x0035#16 := by
  decide +kernel
/-- 2.5: illegality is checked before the unset disparity. -/
theorem test_illegal_before_unset : responseTo 0x11FF State.reset = some 0xE001#16 := by decide +kernel
/-- 2.5: the faulted block answers with the first code. -/
theorem test_faulted_block_first_code : responseTo 0x4000 { State.reset with fault := some .rsUnset } = some 0xE004#16 := by decide +kernel
/-- R240: reset clears a fault. -/
theorem test_reset_event : nextOf (step ({ block .neg .pos with fault := some .rsUnset }.withNextEvent .reset)) = some State.reset := by
  decide +kernel
/-- 2.4's product example. -/
theorem test_gmul : gmul 0x53 0xCA = 0xA8 := by decide +kernel
/-- R47 and R48: the spec's images at 7, 8 (the first reduction), 254, and at the sentinel's places. -/
theorem test_field_roms : [7, 8, 254, 255].map (fun i => Rom.ALPHA_TO (BitVec.ofNat 8 i)) = [0x80, 0x87, 0xC3, 0x00] ∧
    [0x00, 0x01, 0xC3].map (fun v => Rom.INDEX_OF (BitVec.ofNat 8 v)) = [0xFF, 0x00, 0xFE] := by decide +kernel

/-! ### Witnesses: a state and operands that meet the hypotheses of each obligation that has any -/

/-- A block faulted as in 2.5. -/
def faulted : State := { State.reset with fault := some .illegalCommand }

theorem witness_EncodeOfDecodeIsTheWord : decode 0xD01F#16 = .ok (.rsRead 31#5) := rfl
theorem witness_LegalWordsAreTheCommands : (∀ i, decode 0xD020#16 ≠ .ok i) ∧ State.reset.fault = none :=
  ⟨fun i h => (by cases h), rfl⟩
/-- One word for each of R74's cases (a) to (f), at a boundary, and a legal neighbour of each. -/
theorem witness_R74_cases :
    ([0x0000, 0xE000, 0x5400, 0x6800, 0x1100, 0xD020, 0xB001].all fun w => !legalWord (BitVec.ofNat 16 w)) = true ∧
    ([0x1000, 0xD01F, 0x53FF, 0x63FF, 0x10FF, 0xD000, 0xB000].all fun w => legalWord (BitVec.ofNat 16 w)) = true := by decide +kernel
/-- Each range of the out-of-range clauses at its first value, beside the last value in range. -/
theorem witness_LinesAssembleExactlyInRange :
    (256 ≤ 256 ∧ (Line.encByte 255).assemble ≠ none) ∧ (1024 ≤ 1024 ∧ (Line.decVal 1023).assemble ≠ none) ∧
    (32 ≤ 32 ∧ (Line.rsRead 31).assemble ≠ none) := by decide
theorem witness_SymbolRomProperties : Rom.entryWord (Rom.SYM .neg 0x4A#8) = Rom.entryWord (Rom.SYM .pos 0x4A#8) := by decide +kernel
theorem witness_FieldRoms_bounds : (0 : Nat) ≤ 254 ∧ (254 : Nat) ≤ 254 ∧ (253 : Nat) < 254 ∧ (1#8 : Byte) ≠ 0#8 := by decide
theorem witness_FoldIsReductionModulo255 : (255 : Nat) ≤ 255 ∧ mod255Fold 255 255 = 0 := by decide +kernel
theorem witness_StepRunsTheDecodedCommand :
    ({ State.reset with events := [.command 0x3000#16] } : State).events = .command 0x3000#16 :: [] ∧
    decode 0x3000#16 = .ok (.encSetRd .neg) := ⟨rfl, rfl⟩
theorem witness_StepWithoutEventStops : State.reset.events = [] := rfl
theorem witness_ResetEventClearsTheBlock :
    (faulted.withNextEvent .reset).events = .reset :: [] ∧ ∃ t, faulted.fault = some .illegalCommand ∧ issue 0x3000#16 faulted = .next t :=
  ⟨rfl, _, rfl, rfl⟩
theorem witness_UnsetFieldsFault :
    State.reset.fault = none ∧ State.reset.encRd = none ∧ State.reset.decRd = none ∧ State.reset.parity = none := ⟨rfl, rfl, rfl, rfl⟩
theorem witness_FaultEntryIsPrecise :
    ∃ t, (block .neg .neg).fault = none ∧ issue 0x0000#16 (block .neg .neg) = .next t ∧ t.fault = some .illegalCommand := ⟨_, rfl, rfl, rfl⟩
theorem witness_FaultedBlockAnswersFirstCodeUntilReset : faulted.fault = some .illegalCommand := rfl
theorem witness_ChecksApplyInOrder :
    faulted.fault = some .illegalCommand ∧ (State.reset.fault = none ∧ legalWord 0x11FF#16 = false) ∧
    (decode 0x1000#16 = .ok (.encByte 0#8) ∧ unsetFault (.encByte 0#8) State.reset = some .encRdUnset) ∧
    ((block .neg .neg).fault = none ∧ unsetFault (.encByte 0#8) (block .neg .neg) = none) :=
  ⟨rfl, ⟨rfl, by decide +kernel⟩, ⟨rfl, rfl⟩, ⟨rfl, rfl⟩⟩
theorem witness_EveryCommandGivesOneResponse : (faulted.withFetchWord 16 0xFFFF).events = .command 0xFFFF#16 :: [] := rfl
/-- A command for each of the statuses 1 to 4 and 7. -/
theorem witness_StatusesByCommand :
    (responseTo 0x5000 (block .neg .neg)).map responseStatus = some 1#3 ∧ (responseTo 0x818B (block .neg .neg)).map responseStatus = some 2#3 ∧
    (responseTo 0x80FA (block .neg .neg)).map responseStatus = some 3#3 ∧ (responseTo 0x8305 (block .neg .neg)).map responseStatus = some 4#3 ∧
    (responseTo 0x1000 State.reset).map responseStatus = some 7#3 := by decide +kernel
theorem witness_StepKeepsInvariant :
    ∃ s t : State, s.Inv ∧ s.fault = some .illegalCommand ∧ step s = .next t := by
  refine ⟨{ faulted with responses := [faultResponse .illegalCommand], events := [.command 0x3000#16] }, _, ⟨?_, ?_⟩, rfl, rfl⟩
  · intro w hw
    obtain rfl : w = faultResponse .illegalCommand := by simpa using hw
    exact legalResponse_fault _
  · intro c hc
    obtain rfl : FaultCode.illegalCommand = c := by simpa [faulted] using hc
    rfl
theorem witness_line_encoder : (block .neg .pos).fault = none ∧ (block .neg .pos).encRd = some .neg ∧ (block .pos .pos).encRd = some .pos :=
  ⟨rfl, rfl, rfl⟩
theorem witness_GetRdAnswersTheDisparity : (block .neg .pos).fault = none ∧ (block .neg .pos).encRd = some .neg ∧
    (block .neg .neg).decRd = some .neg := ⟨rfl, rfl, rfl⟩
theorem witness_FindReturnsTheFirstMatch : romFindRow Rom.SYMBOL_TABLE .pos 0x18B#10 = some (0x00#8, .pos) := by decide +kernel
theorem witness_SharedWordsAreFoundInRowNeg : Rom.entryWord (Rom.SYM .neg 0xB5#8) = Rom.entryWord (Rom.SYM .pos 0xB5#8) ∧
    Rom.entryWord (Rom.SYM .neg 0x00#8) ≠ Rom.entryWord (Rom.SYM .pos 0x00#8) := by decide +kernel
/-- A table in which a word names one byte: bit 9 the row, bits 7 to 0 the byte. -/
theorem witness_AnyUnambiguousTableRoundTrips :
    ∃ T : Rom.SymbolTable, ∀ (r q : Disparity) (b c : Byte), Rom.entryWord (T r b) = Rom.entryWord (T q c) → b = c := by
  refine ⟨fun _ b => b.setWidth 11, fun _ _ b c h => ?_⟩
  have key : ∀ x : Byte, (Rom.entryWord (x.setWidth 11)).setWidth 8 = x := by decide +kernel
  rw [← key b, ← key c, h]
theorem witness_stateless_decoder : State.reset.fault = none := rfl
/-- Each of the five outcomes at NEG. -/
theorem witness_DecValidateOutcomes :
    (block .neg .neg).fault = none ∧ (block .neg .neg).decRd = some .neg ∧ Rom.entryWord (Rom.SYM .neg 0x00#8) = 0x274#10 ∧
    Rom.entryWord (Rom.SYM (flipRd .neg) 0x00#8) = 0x18B#10 ∧ romFindRow Rom.SYMBOL_TABLE .neg 0x18B#10 = none ∧
    0x0FA#10 = syncWordAt .neg ∧ 0x305#10 = syncWordAt (flipRd .neg) ∧ romFind Rom.SYMBOL_TABLE 0x1BB#10 = none ∧
    (0x1BB#10 : ChannelWord) ≠ syncWordAt .neg ∧ (0x1BB#10 : ChannelWord) ≠ syncWordAt (flipRd .neg) := by decide +kernel
theorem witness_RoundTripOfEveryByte : (block .neg .pos).fault = none ∧ (block .neg .pos).decRd = some .pos := ⟨rfl, rfl⟩
theorem witness_DecodeMissIsReported : inNeitherRow 0x1BB#10 ∧ (block .neg .pos).decRd ≠ none ∧ (0x1BB#10 : ChannelWord) ≠ 0x0FA#10 ∧
    (0x1BB#10 : ChannelWord) ≠ 0x305#10 := by
  have key : ∀ r : Disparity, ∀ b : Byte, Rom.entryWord (Rom.symPacked r b) ≠ 0x1BB#10 := by
    intro r
    cases r <;> decide +kernel
  exact ⟨fun r b => Rom.SYM_eq_symPacked r b ▸ key r b, by decide, by decide, by decide⟩
theorem witness_streams : (block .neg .pos).fault = none ∧ (block .neg .pos).encRd = some .neg ∧
    (block .neg .neg).fault = none ∧ (block .neg .neg).decRd = some .neg := ⟨rfl, rfl, rfl, rfl⟩
theorem witness_parity_accumulator : (block .neg .neg).fault = none ∧ (block .neg .neg).parity = some zeroParity := ⟨rfl, rfl⟩
/-- Two blocks with different histories, other commands in between, one byte sequence. -/
theorem witness_ParityDependsOnItsBytesAlone :
    ∃ t₁ t₂ : State, execAll [.rsReset, .rsUpdate 1#8] State.reset = .next t₁ ∧
      execAll [.rsReset, .encSetRd .pos, .rsUpdate 1#8] (block .neg .pos) = .next t₂ ∧ t₁.fault = none ∧ t₂.fault = none ∧
      .rsReset ∉ [Instr.rsUpdate 1#8] ∧ .rsReset ∉ [Instr.encSetRd .pos, .rsUpdate 1#8] ∧
      [Instr.rsUpdate 1#8].filterMap updateByte = [Instr.encSetRd .pos, .rsUpdate 1#8].filterMap updateByte :=
  ⟨_, _, rfl, rfl, rfl, rfl, by decide, by decide, rfl⟩
theorem witness_ParityIsLinear : State.reset.fault = none ∧ ([0x01#8] : List Byte).length = ([0x80#8] : List Byte).length := ⟨rfl, rfl⟩
theorem witness_CommandsWriteOnlyTheirFields : ∃ t, exec (.encSetRd .pos) (block .neg .neg) = .next t ∧ writesDecRd (.encSetRd .pos) = false ∧
    writesParity (.encSetRd .pos) = false ∧ writesEncRd .rsReset = false := ⟨_, rfl, rfl, rfl, rfl⟩
theorem witness_CommandsReadOnlyTheirFields : (block .neg .neg).fault = (block .neg .pos).fault ∧ readsEncRd .encEof = true ∧
    (block .neg .neg).encRd = (block .neg .pos).encRd ∧ readsDecRd .encEof = false ∧ readsParity .encEof = false := ⟨rfl, rfl, rfl, rfl, rfl⟩
theorem witness_ObservingAndIdempotentCommands : ∃ t, exec .encGetRd (block .neg .neg) = .next t ∧ t.fault = none := ⟨_, rfl, rfl⟩
theorem witness_InitialisationInAnyOrder : [Instr.rsReset, .encSetRd .neg, .decSetRd .pos].Perm (initCommands .neg .pos) := by decide
theorem witness_InitialisedBlockNeverFaults : (block .neg .pos).initialised := ⟨rfl, rfl, rfl, rfl⟩

end Sys2Proof.Tests
end

section
/-! SUPPORT. The access map of R33, both ways: what a command leaves unchanged, and that what it does is one effect on all states that
agree on what it reads. Then the statements about the block state. -/

namespace Sys2Proof.Machine

/-! ### The fault of an unset field (R215 to R217) -/

section
variable {i : Instr} {s : State}

theorem unsetFault_of_encRd_none (hr : readsEncRd i = true) (hn : s.encRd = none) : unsetFault i s = some .encRdUnset := by
  simp [unsetFault, hr, hn]

theorem unsetFault_of_decRd_none (hr : readsDecRd i = true) (hn : s.decRd = none) : unsetFault i s = some .decRdUnset := by
  have he : readsEncRd i = false := by
    cases i with
    | decValidate | decGetRd => rfl
    | _ => cases hr
  simp [unsetFault, he, hr, hn]

theorem unsetFault_of_parity_none (hr : readsParity i = true) (hn : s.parity = none) : unsetFault i s = some .rsUnset := by
  have he : readsEncRd i = false ∧ readsDecRd i = false := by
    cases i with
    | rsUpdate | rsRead => exact ⟨rfl, rfl⟩
    | _ => cases hr
  simp [unsetFault, he, hr, hn]

end

theorem faultResponse_encRdUnset : faultResponse .encRdUnset = 0xE002#16 := by decide
theorem faultResponse_decRdUnset : faultResponse .decRdUnset = 0xE003#16 := by decide
theorem faultResponse_rsUnset : faultResponse .rsUnset = 0xE004#16 := by decide

/-! ### What a command leaves unchanged -/

/-- A command either ends with a fault recorded, the first one, and every field as it was, or it completes (R218 to R220). -/
theorem next_faults_or_completes {i : Instr} {s t : State} (h : exec i s = .next t) :
    (t.fault ≠ none ∧ (s.fault ≠ none → t.fault = s.fault) ∧ t.encRd = s.encRd ∧ t.decRd = s.decRd ∧ t.parity = s.parity ∧
        t.events = s.events) ∨
      (s.fault = none ∧ unsetFault i s = none ∧ ∃ u st d x, CompletesAs i s u st d x ∧ t = u.answered (packResponse st d x)) := by
  obtain ⟨c, hf, hx⟩ | ⟨hf, c, -, hx⟩ | ⟨hf, hu, u, st, d, x, hc⟩ := exec_cases i s
  · obtain rfl := next_injective (h.symm.trans hx)
    exact .inl ⟨by simp [hf], fun _ => rfl, rfl, rfl, rfl, rfl⟩
  · obtain rfl := next_injective (h.symm.trans hx)
    exact .inl ⟨by simp, fun hn => absurd hf hn, rfl, rfl, rfl, rfl⟩
  · exact .inr ⟨hf, hu, u, st, d, x, hc, next_injective (h.symm.trans hc.answer)⟩

/-- A command that writes `enc_rd` without reading it is ENC_SET_RD (R33). -/
theorem reads_or_sets_encRd {i : Instr} (h : writesEncRd i = true) : readsEncRd i = true ∨ ∃ d, i = .encSetRd d := by
  cases i with
  | encByte | encEof => exact .inl rfl
  | encSetRd d => exact .inr ⟨d, rfl⟩
  | _ => cases h

/-- A command that writes `dec_rd` without reading it is DEC_SET_RD (R33). -/
theorem reads_or_sets_decRd {i : Instr} (h : writesDecRd i = true) : readsDecRd i = true ∨ ∃ d, i = .decSetRd d := by
  cases i with
  | decValidate => exact .inl rfl
  | decSetRd d => exact .inr ⟨d, rfl⟩
  | _ => cases h

/-- A command that writes `parity` without reading it is RS_RESET (R33). -/
theorem reads_or_resets_parity {i : Instr} (h : writesParity i = true) : readsParity i = true ∨ i = .rsReset := by
  cases i with
  | rsUpdate => exact .inl rfl
  | rsReset => exact .inr rfl
  | _ => cases h

/-- Why a field leaves `none` only by the command `P` names: a command that does not write it leaves it, and one that reads it before it
writes found a value in it. -/
theorem leaves_none_only_by {α : Type} {P : Prop} {writes reads : Bool} {a b : Option α} (hframe : writes = false → b = a)
    (hrow : writes = true → reads = true ∨ P) (hread : reads = true → ∃ v, a = some v) (hn : a = none) (hb : b ≠ none) : P := by
  have hw : writes = true := by
    by_contra hw
    exact hb ((hframe (Bool.eq_false_of_not_eq_true hw)).trans hn)
  refine (hrow hw).resolve_left fun hr => ?_
  obtain ⟨v, hv⟩ := hread hr
  exact absurd (hv.symm.trans hn) (Option.some_ne_none v)

/-! ### What a command does, as a function of what it reads -/

/-- Two states agree on everything command `i` reads: `fault`, and the fields R33 names. -/
structure AgreeOnReads (i : Instr) (s₁ s₂ : State) : Prop where
  fault : s₁.fault = s₂.fault
  encRd : readsEncRd i = true → s₁.encRd = s₂.encRd
  decRd : readsDecRd i = true → s₁.decRd = s₂.decRd
  parity : readsParity i = true → s₁.parity = s₂.parity

theorem AgreeOnReads.refl (i : Instr) (s : State) : AgreeOnReads i s s := ⟨rfl, fun _ => rfl, fun _ => rfl, fun _ => rfl⟩

theorem AgreeOnReads.unsetFault_eq {i : Instr} {s₁ s₂ : State} (h : AgreeOnReads i s₁ s₂) : unsetFault i s₂ = unsetFault i s₁ := by
  have he : (readsEncRd i && s₂.encRd.isNone) = (readsEncRd i && s₁.encRd.isNone) := by
    cases hr : readsEncRd i with
    | false => rfl
    | true => rw [h.encRd hr]
  have hd : (readsDecRd i && s₂.decRd.isNone) = (readsDecRd i && s₁.decRd.isNone) := by
    cases hr : readsDecRd i with
    | false => rfl
    | true => rw [h.decRd hr]
  have hp : (readsParity i && s₂.parity.isNone) = (readsParity i && s₁.parity.isNone) := by
    cases hr : readsParity i with
    | false => rfl
    | true => rw [h.parity hr]
  simp only [unsetFault, he, hd, hp]

/-- What a command does to a state: the response it gives, and for each field the value it writes, `none` where it writes nothing. -/
structure Effect where
  response : ResponseWord
  encRd : Option Disparity := none
  decRd : Option Disparity := none
  parity : Option Parity := none
  fault : Option FaultCode := none

/-- The state after an effect: the written fields hold their new value, the others stay. -/
def Effect.applyTo (e : Effect) (s : State) : State :=
  { encRd := e.encRd.or s.encRd, decRd := e.decRd.or s.decRd, parity := e.parity.or s.parity, fault := e.fault.or s.fault,
    events := s.events, responses := s.responses ++ [e.response] }

/-- A written field is the same in both states, a field not written changes in neither. -/
theorem or_eq_or_unchanged {α : Type} (v a b : Option α) : v.or a = v.or b ∨ (v.or a = a ∧ v.or b = b) := by
  cases v with
  | none => exact .inr ⟨rfl, rfl⟩
  | some _ => exact .inl rfl

/-- DEC_VALIDATE on a fault-free block that holds `r` does one thing, whatever else the block holds (R135). -/
theorem decValidate_effect (w : ChannelWord) (r : Disparity) :
    ∃ e : Effect, ∀ t : State, t.fault = none → t.decRd = some r → exec (.decValidate w) t = .next (e.applyTo t) := by
  cases h₁ : romFindRow Rom.SYMBOL_TABLE r w with
  | some y =>
    refine ⟨{ response := packResponse .ok y.2.bit (zext10 y.1), decRd := some y.2 }, fun t hf hd => ?_⟩
    simp only [exec, execDecValidate, gate_of_none hf, readDecRd, hd, h₁]; rfl
  | none =>
    cases h₂ : romFindRow Rom.SYMBOL_TABLE (flipRd r) w with
    | some y =>
      refine ⟨{ response := packResponse .rdError y.2.bit (zext10 y.1), decRd := some y.2 }, fun t hf hd => ?_⟩
      simp only [exec, execDecValidate, gate_of_none hf, readDecRd, hd, h₁, h₂]; rfl
    | none =>
      by_cases h₃ : w = syncWordAt r
      · refine ⟨{ response := packResponse .sync (flipRd r).bit w, decRd := some (flipRd r) }, fun t hf hd => ?_⟩
        simp only [exec, execDecValidate, gate_of_none hf, readDecRd, hd, h₁, h₂, if_pos h₃]; rfl
      · by_cases h₄ : w = syncWordAt (flipRd r)
        · refine ⟨{ response := packResponse .rdErrorSync r.bit w, decRd := some r }, fun t hf hd => ?_⟩
          simp only [exec, execDecValidate, gate_of_none hf, readDecRd, hd, h₁, h₂, if_neg h₃, if_pos h₄]; rfl
        · refine ⟨{ response := packResponse .notFound 0#1 0#10 }, fun t hf hd => ?_⟩
          simp only [exec, execDecValidate, gate_of_none hf, readDecRd, hd, h₁, h₂, if_neg h₃, if_neg h₄]; rfl

/-- A command that completes has one effect on all states that agree on what it reads. -/
theorem completing_effect {i : Instr} {s : State} (hf : s.fault = none) (hu : unsetFault i s = none) :
    ∃ e : Effect, ∀ t, AgreeOnReads i s t → exec i t = .next (e.applyTo t) := by
  have gate_open {t : State} (h : AgreeOnReads i s t) : t.fault = none := h.fault.symm.trans hf
  cases i with
  | encByte b =>
    obtain ⟨r, he⟩ := encRd_of_reads rfl hu
    refine ⟨{ response := packResponse .ok (Rom.entryNext (Rom.SYM r b)).bit (Rom.entryWord (Rom.SYM r b)),
              encRd := some (Rom.entryNext (Rom.SYM r b)) }, fun t h => ?_⟩
    simp only [exec, execEncByte, gate_of_none (gate_open h), readEncRd, ← h.encRd rfl, he]; rfl
  | encEof =>
    obtain ⟨r, he⟩ := encRd_of_reads rfl hu
    refine ⟨{ response := packResponse .ok (flipRd r).bit (syncWordAt r), encRd := some (flipRd r) }, fun t h => ?_⟩
    simp only [exec, execEncEof, gate_of_none (gate_open h), readEncRd, ← h.encRd rfl, he]; rfl
  | encSetRd d =>
    refine ⟨{ response := packResponse .ok d.bit 0#10, encRd := some d }, fun t h => ?_⟩
    simp only [exec, execEncSetRd, gate_of_none (gate_open h)]; rfl
  | encGetRd =>
    obtain ⟨r, he⟩ := encRd_of_reads rfl hu
    refine ⟨{ response := packResponse .ok r.bit 0#10 }, fun t h => ?_⟩
    simp only [exec, execEncGetRd, gate_of_none (gate_open h), readEncRd, ← h.encRd rfl, he]; rfl
  | decSymbol c w =>
    cases hs : romFind Rom.SYMBOL_TABLE (if c then comp10 w else w) with
    | none =>
      refine ⟨{ response := packResponse .notFound 0#1 0#10 }, fun t h => ?_⟩
      simp only [exec, execDecSymbol, gate_of_none (gate_open h), hs]; rfl
    | some y =>
      refine ⟨{ response := packResponse .ok 0#1 (zext10 y.2.1) }, fun t h => ?_⟩
      simp only [exec, execDecSymbol, gate_of_none (gate_open h), hs]; rfl
  | decDisparityOf w =>
    cases hs : romFind Rom.SYMBOL_TABLE w with
    | none =>
      refine ⟨{ response := packResponse .notFound 0#1 0#10 }, fun t h => ?_⟩
      simp only [exec, execDecDisparityOf, gate_of_none (gate_open h), hs]; rfl
    | some y =>
      refine ⟨{ response := packResponse .ok y.1.bit 0#10 }, fun t h => ?_⟩
      simp only [exec, execDecDisparityOf, gate_of_none (gate_open h), hs]; rfl
  | decNextDisparity w =>
    cases hs : romFind Rom.SYMBOL_TABLE w with
    | none =>
      refine ⟨{ response := packResponse .notFound 0#1 0#10 }, fun t h => ?_⟩
      simp only [exec, execDecNextDisparity, gate_of_none (gate_open h), hs]; rfl
    | some y =>
      refine ⟨{ response := packResponse .ok y.2.2.bit 0#10 }, fun t h => ?_⟩
      simp only [exec, execDecNextDisparity, gate_of_none (gate_open h), hs]; rfl
  | decValidate w =>
    obtain ⟨r, he⟩ := decRd_of_reads rfl hu
    obtain ⟨e, hx⟩ := decValidate_effect w r
    exact ⟨e, fun t h => hx t (gate_open h) ((h.decRd rfl).symm.trans he)⟩
  | decSetRd d =>
    refine ⟨{ response := packResponse .ok d.bit 0#10, decRd := some d }, fun t h => ?_⟩
    simp only [exec, execDecSetRd, gate_of_none (gate_open h)]; rfl
  | decGetRd =>
    obtain ⟨r, he⟩ := decRd_of_reads rfl hu
    refine ⟨{ response := packResponse .ok r.bit 0#10 }, fun t h => ?_⟩
    simp only [exec, execDecGetRd, gate_of_none (gate_open h), readDecRd, ← h.decRd rfl, he]; rfl
  | rsReset =>
    refine ⟨{ response := packResponse .ok 0#1 0#10, parity := some zeroParity }, fun t h => ?_⟩
    simp only [exec, execRsReset, gate_of_none (gate_open h)]; rfl
  | rsUpdate b =>
    obtain ⟨p, he⟩ := parity_of_reads rfl hu
    refine ⟨{ response := packResponse .ok 0#1 0#10, parity := some (rsStep p b) }, fun t h => ?_⟩
    simp only [exec, execRsUpdate, gate_of_none (gate_open h), readParity, ← h.parity rfl, he]; rfl
  | rsRead k =>
    obtain ⟨p, he⟩ := parity_of_reads rfl hu
    refine ⟨{ response := packResponse .ok 0#1 (zext10 (p[k.toNat]'k.isLt)) }, fun t h => ?_⟩
    simp only [exec, execRsRead, gate_of_none (gate_open h), readParity, ← h.parity rfl, he]; rfl

/-- Every command, faulting or not, has one effect on all states that agree on what it reads (R33). -/
theorem exec_effect (i : Instr) (s : State) : ∃ e : Effect, ∀ t, AgreeOnReads i s t → exec i t = .next (e.applyTo t) := by
  obtain ⟨c, hf, -⟩ | ⟨hf, c, hu, -⟩ | ⟨hf, hu, -⟩ := exec_cases i s
  · exact ⟨{ response := faultResponse c }, fun t h => exec_of_fault (h.fault.symm.trans hf) i⟩
  · exact ⟨{ response := faultResponse c, fault := some c },
      fun t h => exec_of_unset (h.fault.symm.trans hf) (h.unsetFault_eq.trans hu)⟩
  · exact completing_effect hf hu

end Sys2Proof.Machine

/-! ### The statements -/

namespace Sys2Proof.Proofs

open Sys2Proof.Machine

/-- Settles O47: a command that faults keeps every field, and one that completes writes within its row of R33. -/
theorem commandsWriteOnlyTheirFields : Obligations.CommandsWriteOnlyTheirFields := by
  intro i s t h
  obtain ⟨hf, hfirst, he, hd, hp, hev⟩ | ⟨hf, hu, u, st, d, x, hc, rfl⟩ := next_faults_or_completes h
  · exact ⟨fun _ => he, fun _ => hd, fun _ => hp, hfirst, fun _ => ⟨he, hd, hp⟩, hev,
      fun hn hs => absurd (he.trans hn) hs, fun hn hs => absurd (hd.trans hn) hs, fun hn hs => absurd (hp.trans hn) hs,
      he.trans_ne, hd.trans_ne, hp.trans_ne⟩
  · have stays_set {α : Type} {a b : Option α} (hk : a.isSome → b.isSome) (ha : a ≠ none) : b ≠ none :=
      Option.isSome_iff_ne_none.mp (hk (Option.isSome_iff_ne_none.mpr ha))
    exact ⟨hc.encRd, hc.decRd, hc.parity, fun hn => absurd hf hn, fun hn => absurd hc.fault hn, hc.events,
      leaves_none_only_by hc.encRd reads_or_sets_encRd (encRd_of_reads · hu),
      leaves_none_only_by hc.decRd reads_or_sets_decRd (decRd_of_reads · hu),
      leaves_none_only_by hc.parity reads_or_resets_parity (parity_of_reads · hu),
      stays_set hc.keepsEncRd, stays_set hc.keepsDecRd, stays_set hc.keepsParity⟩

/-- Settles O48: the command has one effect on both states. -/
theorem commandsReadOnlyTheirFields : Obligations.CommandsReadOnlyTheirFields := by
  intro i s₁ s₂ hf he hd hp
  obtain ⟨e, hx⟩ := exec_effect i s₁
  exact ⟨e.applyTo s₁, e.applyTo s₂, e.response, hx s₁ (.refl i s₁), hx s₂ ⟨hf, he, hd, hp⟩, rfl, rfl, congrArg e.fault.or hf,
    or_eq_or_unchanged .., or_eq_or_unchanged .., or_eq_or_unchanged ..⟩

/-- Settles O18: each command named reads the unset field, and takes that field's fault. -/
theorem unsetFieldsFault : Obligations.UnsetFieldsFault := by
  refine ⟨⟨rfl, rfl, rfl, rfl⟩, fun s hf hn i hi => ?_, fun s hf hn i hi => ?_, fun s hf hn i hi => ?_⟩
  · have hr : readsEncRd i = true := by obtain ⟨b, rfl⟩ | rfl | rfl := hi <;> rfl
    rw [exec_of_unset hf (unsetFault_of_encRd_none hr hn), faultResponse_encRdUnset]; rfl
  · have hr : readsDecRd i = true := by obtain ⟨w, rfl⟩ | rfl := hi <;> rfl
    rw [exec_of_unset hf (unsetFault_of_decRd_none hr hn), faultResponse_decRdUnset]; rfl
  · have hr : readsParity i = true := by obtain ⟨b, rfl⟩ | ⟨k, rfl⟩ := hi <;> rfl
    rw [exec_of_unset hf (unsetFault_of_parity_none hr hn), faultResponse_rsUnset]; rfl

/-- Settles O25: after reset no response has been given and no fault is recorded. -/
theorem invariantHoldsAtReset : Obligations.InvariantHoldsAtReset := by
  have no_response : ∀ w ∈ State.reset.responses, legalResponse w := nofun
  have no_fault : ∀ c, State.reset.fault = some c → State.reset.responses.getLast? = some (faultResponse c) := nofun
  exact ⟨no_response, no_fault⟩

end Sys2Proof.Proofs
end

section
/-! SUPPORT. The read-only tables (R40 to R51), what commands do when repeated (R58), and the command a step runs (R59). Then the
statements of spec/20_memory.md. -/

-- One kernel evaluation at a time: many at once exhaust the threads of a bounded process.
set_option Elab.async false

namespace Sys2Proof

/-! ### The command a step runs (R59, R70 to R73) -/

@[simp] theorem ofBool_beq_one (c : Bool) : (BitVec.ofBool c == 1#1) = c := by cases c <;> rfl

/-- A byte operand in the 10-bit field is read back, with zeros above it. -/
theorem byte_field (b : Byte) : (b.setWidth 10).extractLsb' 0 8 = b ∧ (b.setWidth 10).extractLsb' 8 2 = 0#2 := by
  revert b; decide +kernel

theorem idx_field (i : BitVec 5) : (i.setWidth 10).extractLsb' 0 5 = i ∧ (i.setWidth 10).extractLsb' 5 5 = 0#5 := by
  revert i; decide +kernel

@[simp] theorem formatB_pack (op : BitVec 4) (b : Byte) (k : Byte → Instr) :
    formatB (packCommand op 0#1 (b.setWidth 10)) k = .ok (k b) := by
  simp [formatB, cmdByte, extractLsb'_pack, byte_field]

@[simp] theorem formatN_pack (op : BitVec 4) (i : Instr) : formatN (packCommand op 0#1 0#10) i = .ok i := by
  simp [formatN]

@[simp] theorem formatS_pack (op : BitVec 4) (d : Disparity) (k : Disparity → Instr) :
    formatS (packCommand op d.bit 0#10) k = .ok (k d) := by
  simp [formatS]

@[simp] theorem formatW_pack (op : BitVec 4) (w : ChannelWord) (k : ChannelWord → Instr) :
    formatW (packCommand op 0#1 w) k = .ok (k w) := by
  simp [formatW]

@[simp] theorem formatWC_pack (op : BitVec 4) (c : Bool) (w : ChannelWord) (k : Bool → ChannelWord → Instr) :
    formatWC (packCommand op (BitVec.ofBool c) w) k = .ok (k c w) := by
  simp [formatWC]

@[simp] theorem formatI_pack (op : BitVec 4) (i : BitVec 5) (k : BitVec 5 → Instr) :
    formatI (packCommand op 0#1 (i.setWidth 10)) k = .ok (k i) := by
  simp [formatI, cmdIdx, extractLsb'_pack, idx_field]

theorem decode_encode (i : Instr) : decode (encode i) = .ok i := by
  cases i <;> simp [encode, decode]

theorem tableCommandWord_toNat (w : CommandWord) : tableCommandWord 16 w.toNat = w := by
  rw [tableCommandWord, Nat.mod_eq_of_lt w.isLt, BitVec.ofNat_toNat, BitVec.setWidth_eq]

namespace Machine

theorem step_of_command {s : State} {w : CommandWord} {rest : List HostEvent} {i : Instr} (he : s.events = .command w :: rest)
    (hd : decode w = .ok i) : step s = exec i { s with events := rest } := by
  simp only [step, takeEvent, he, handleEvent, issue, hd]

end Machine

end Sys2Proof

namespace Sys2Proof.Machine

/-! ### The symbol ROM (R41 to R46) -/

theorem SYM_eq_constructedEntry (r : Disparity) (b : Byte) : Rom.SYM r b = Rom.constructedEntry r b := by
  have packed : ∀ c : Byte, Rom.symPacked r c = Rom.constructedEntry r c := by cases r <;> decide +kernel
  exact (Rom.SYM_eq_symPacked r b).trans (packed b)

/-- The place of a sub-block in a table of R42, whichever of its two forms it is. -/
def subBlockIndex {n : Nat} (table : List (BitVec n × BitVec n)) (s : BitVec n) : Nat := table.findIdx fun p => p.1 == s || p.2 == s

/-- The byte that a channel word carries in either row, read back from its two sub-blocks (R42): the 6-bit one names bits 4 to 0, the
4-bit one bits 7 to 5, and the alternate A7 stands at place 7 like the form it replaces. -/
def byteOfWord (w : ChannelWord) : Byte :=
  BitVec.ofNat 8 (32 * min 7 (subBlockIndex (Rom.FOUR ++ [Rom.A7]) (w.extractLsb' 0 4)) + subBlockIndex Rom.SIX (w.extractLsb' 4 6))

/-- No form of one sub-block is a form of another, so the word of an entry names its byte. -/
theorem byteOfWord_entryWord (r : Disparity) (b : Byte) : byteOfWord (Rom.entryWord (Rom.SYM r b)) = b := by
  have packed : ∀ c : Byte, byteOfWord (Rom.entryWord (Rom.symPacked r c)) = c := by cases r <;> decide +kernel
  exact Rom.SYM_eq_symPacked r b ▸ packed b

theorem entryWord_injective {r q : Disparity} {b c : Byte} (h : Rom.entryWord (Rom.SYM r b) = Rom.entryWord (Rom.SYM q c)) : b = c := by
  rw [← byteOfWord_entryWord r b, h, byteOfWord_entryWord]

theorem romFindRow_eq_none_iff (T : Rom.SymbolTable) (r : Disparity) (w : ChannelWord) :
    romFindRow T r w = none ↔ ∀ b, Rom.entryWord (T r b) ≠ w := by
  simp [romFindRow]

theorem romFind_eq_none_iff (T : Rom.SymbolTable) (w : ChannelWord) : romFind T w = none ↔ ∀ r b, Rom.entryWord (T r b) ≠ w := by
  rw [← show (∀ r, romFindRow T r w = none) ↔ _ from forall_congr' fun r => romFindRow_eq_none_iff T r w]
  obtain ⟨b, n, hneg, h⟩ | ⟨-, b, n, hpos, h⟩ | ⟨hneg, hpos, h⟩ := romFind_cases T w
  · exact iff_of_false (by simp [h]) fun hall => by simp [hall] at hneg
  · exact iff_of_false (by simp [h]) fun hall => by simp [hall] at hpos
  · exact iff_of_true h fun r => by cases r <;> assumption

/-- A search that hits names an entry with the word, and that entry's next disparity. -/
theorem romFind_sound {T : Rom.SymbolTable} {w : ChannelWord} {r : Disparity} {b : Byte} {n : Disparity}
    (h : romFind T w = some (r, b, n)) : Rom.entryWord (T r b) = w ∧ n = Rom.entryNext (T r b) := by
  obtain ⟨c, m, hrow, h'⟩ | ⟨-, c, m, hrow, h'⟩ | ⟨-, -, h'⟩ := romFind_cases T w
  · obtain ⟨rfl, rfl, rfl⟩ : Disparity.neg = r ∧ c = b ∧ m = n := by simpa using h'.symm.trans h
    exact romFindRow_sound hrow
  · obtain ⟨rfl, rfl, rfl⟩ : Disparity.pos = r ∧ c = b ∧ m = n := by simpa using h'.symm.trans h
    exact romFindRow_sound hrow
  · cases h'.symm.trans h

theorem romFind_entryWord (r : Disparity) (b : Byte) :
    (romFind Rom.SYMBOL_TABLE (Rom.entryWord (Rom.SYM r b))).map (fun x => x.2.1) = some b := by
  cases h : romFind Rom.SYMBOL_TABLE (Rom.entryWord (Rom.SYM r b)) with
  | none => exact absurd rfl ((romFind_eq_none_iff _ _).1 h r b)
  | some x => exact congrArg some (entryWord_injective (romFind_sound h).1)

/-- A word is in the ROM iff the byte it would carry has it in one of the two rows. -/
theorem romFind_isSome_iff (w : ChannelWord) :
    (romFind Rom.SYMBOL_TABLE w).isSome ↔
      Rom.entryWord (Rom.symPacked .neg (byteOfWord w)) = w ∨ Rom.entryWord (Rom.symPacked .pos (byteOfWord w)) = w := by
  simp only [← Rom.SYM_eq_symPacked]
  constructor
  · intro h
    obtain ⟨⟨r, b, n⟩, hx⟩ := Option.isSome_iff_exists.1 h
    obtain rfl := (romFind_sound hx).1
    rw [show Rom.SYMBOL_TABLE r b = Rom.SYM r b from rfl, byteOfWord_entryWord]
    cases r
    · exact .inl rfl
    · exact .inr rfl
  · intro h
    rw [Option.isSome_iff_ne_none]
    intro hn
    have hmiss := (romFind_eq_none_iff _ _).1 hn
    exact h.elim (hmiss .neg _) (hmiss .pos _)

/-- 440 words are in the ROM (R46 (b)), counted by reading each word back to the byte it would carry. -/
theorem symbolRom_word_count : ((List.range 1024).countP fun w => (romFind Rom.SYMBOL_TABLE (BitVec.ofNat 10 w)).isSome) = 440 := by
  have by_decoding : ((List.range 1024).countP fun w =>
      decide (Rom.entryWord (Rom.symPacked .neg (byteOfWord (BitVec.ofNat 10 w))) = BitVec.ofNat 10 w ∨
        Rom.entryWord (Rom.symPacked .pos (byteOfWord (BitVec.ofNat 10 w))) = BitVec.ofNat 10 w)) = 440 := by decide +kernel
  rw [← by_decoding]
  exact List.countP_congr fun w _ => (romFind_isSome_iff (BitVec.ofNat 10 w)).trans decide_eq_true_iff.symm

/-- The whole word's disparity is the entry's, and its ones are five, or one more or less against the starting disparity (R46 (c)). -/
theorem entry_balance (r : Disparity) (b : Byte) :
    Rom.entryNext (Rom.SYM r b) = Rom.rdAfter r (Rom.entryWord (Rom.SYM r b)) ∧
    (Rom.onesCount (Rom.entryWord (Rom.SYM r b)) = 5 ∨
      (Rom.onesCount (Rom.entryWord (Rom.SYM r b)) = 6 ∧ r = .neg ∧ Rom.entryNext (Rom.SYM r b) = .pos) ∨
      (Rom.onesCount (Rom.entryWord (Rom.SYM r b)) = 4 ∧ r = .pos ∧ Rom.entryNext (Rom.SYM r b) = .neg)) := by
  rw [Rom.SYM_eq_symPacked]
  revert b
  cases r <;> decide +kernel

/-- Row NEG has no word with four ones and row POS none with six, so a word of both has five. -/
theorem shared_word_balanced {b : Byte} (h : Rom.entryWord (Rom.SYM .neg b) = Rom.entryWord (Rom.SYM .pos b)) (r : Disparity) :
    Rom.onesCount (Rom.entryWord (Rom.SYM r b)) = 5 := by
  have hneg := (entry_balance .neg b).2
  have hpos := (entry_balance .pos b).2
  rw [h] at hneg
  have hfive : Rom.onesCount (Rom.entryWord (Rom.SYM .pos b)) = 5 := by grind
  cases r with
  | neg => rw [h, hfive]
  | pos => exact hfive

theorem shared_word_keeps_disparity {b : Byte} (h : Rom.entryWord (Rom.SYM .neg b) = Rom.entryWord (Rom.SYM .pos b)) (r : Disparity) :
    Rom.entryNext (Rom.SYM r b) = r := by
  rw [(entry_balance r b).1, Rom.rdAfter, shared_word_balanced h r]; rfl

/-- 72 bytes have one word in both rows (R46 (d)). -/
theorem shared_word_count : ((List.range 256).countP fun b => Rom.entryWord (Rom.SYM .neg (BitVec.ofNat 8 b)) ==
    Rom.entryWord (Rom.SYM .pos (BitVec.ofNat 8 b))) = 72 := by
  simp only [Rom.SYM_eq_symPacked]
  decide +kernel

/-- No row holds a sync word (R46 (e)). -/
theorem entryWord_ne_syncWordAt (r q : Disparity) (b : Byte) : Rom.entryWord (Rom.SYM r b) ≠ syncWordAt q := by
  rw [Rom.SYM_eq_symPacked]
  revert b
  cases r <;> cases q <;> decide +kernel

theorem romFindRow_syncWordAt (r q : Disparity) : romFindRow Rom.SYMBOL_TABLE r (syncWordAt q) = none :=
  (romFindRow_eq_none_iff ..).2 fun b => entryWord_ne_syncWordAt r q b

/-! ### Runs of equal bits on the line (R46 (f), R52) -/

/-- The last bit and the length of the run it ends, after more bits have been sent on a line that ended in a run of `n` bits `b`. -/
def runAfter (b : Bool) (n : Nat) : List Bool → Bool × Nat
  | [] => (b, n)
  | c :: cs => if c = b then runAfter b (n + 1) cs else runAfter c 1 cs

theorem le_longestRunFrom (b : Bool) (n : Nat) (bits : List Bool) : n ≤ longestRunFrom b n bits := by
  induction bits generalizing n with
  | nil => exact le_rfl
  | cons c cs ih =>
    rw [longestRunFrom]
    split
    · exact (Nat.le_succ n).trans (ih (n + 1))
    · exact le_max_left ..

/-- A line's longest run is that of its first part, or that of its second part with the run the first one ends in carried over. -/
theorem longestRunFrom_append (b : Bool) (n : Nat) (xs ys : List Bool) :
    longestRunFrom b n (xs ++ ys) = max (longestRunFrom b n xs) (longestRunFrom (runAfter b n xs).1 (runAfter b n xs).2 ys) := by
  induction xs generalizing b n with
  | nil => exact (max_eq_right (le_longestRunFrom b n ys)).symm
  | cons c cs ih =>
    rw [List.cons_append, longestRunFrom, longestRunFrom, runAfter]
    split
    · exact ih b (n + 1)
    · rw [ih c 1, max_assoc]

theorem longestRun_eq_from_empty_run (b : Bool) (bits : List Bool) : longestRun bits = longestRunFrom b 0 bits := by
  cases bits with
  | nil => rfl
  | cons c cs =>
    rw [longestRunFrom]
    split
    · next h => rw [h]; rfl
    · exact (Nat.zero_max _).symm

/-- How long a run of `b` may be where a symbol ends and disparity `r` is reached: the symbols that follow start with at most two more
bits of `b` where this is 3, and at most three where it is 2. -/
def carriedRun : Disparity → Bool → Nat
  | .neg, false => 3
  | .neg, true => 2
  | .pos, false => 2
  | .pos, true => 3

theorem carriedRun_le_three (r : Disparity) (b : Bool) : carriedRun r b ≤ 3 := by cases r <;> cases b <;> decide

/-- The invariant of a line along the disparity path: on a line that ends in a run of at most `carriedRun` bits, the next symbol makes no
run longer than five, and the line ends in such a run again. -/
theorem symbol_keeps_runs_short (r : Disparity) (x : LineSymbol) (b : Bool) {n : Nat} (h : n ≤ carriedRun r b) :
    longestRunFrom b n (channelBits (symbolWord r x)) ≤ 5 ∧
      (runAfter b n (channelBits (symbolWord r x))).2 ≤
        carriedRun (symbolNext r x) (runAfter b n (channelBits (symbolWord r x))).1 := by
  have hn : n ∈ List.range 4 := List.mem_range.2 (Nat.lt_succ_of_le (h.trans (carriedRun_le_three r b)))
  cases x with
  | none => revert n; cases r <;> cases b <;> decide +kernel
  | some c =>
    simp only [symbolWord, symbolNext, Rom.SYM_eq_symPacked]
    revert n c
    cases r <;> cases b <;> decide +kernel

/-! ### The field ROMs (R47, R48) -/

/-- The list of powers holds at place `i` what `i` steps of the recurrence give. -/
theorem powersFrom_getElem? (n : Nat) (v : Byte) (i : Nat) (h : i < n) : (Rom.powersFrom n v)[i]? = some (timesAlphaPower v i) := by
  have step_first (u : Byte) (k : Nat) : timesAlphaPower (Rom.timesAlpha u) k = timesAlphaPower u (k + 1) := by
    induction k with
    | zero => rfl
    | succ k ih => exact congrArg Rom.timesAlpha ih
  induction n generalizing v i with
  | zero => omega
  | succ n ih =>
    cases i with
    | zero => rfl
    | succ i => exact (ih (Rom.timesAlpha v) i (by omega)).trans (congrArg some (step_first v i))

theorem timesAlphaPower_alphaPower (j i : Nat) : timesAlphaPower (Rom.alphaPower j) i = Rom.alphaPower (j + i) := by
  induction i with
  | zero => rfl
  | succ i ih => exact congrArg Rom.timesAlpha ih

theorem ALPHA_TO_ofNat {i : Nat} (h : i ≤ 254) : Rom.ALPHA_TO (BitVec.ofNat 8 i) = Rom.alphaPower i := by
  have hi : (BitVec.ofNat 8 i).toNat = i := Nat.mod_eq_of_lt (by omega)
  have hp : Rom.alphaPowers[i]? = some (Rom.alphaPower (0 + i)) :=
    (powersFrom_getElem? 255 1#8 i (by omega)).trans (congrArg some (timesAlphaPower_alphaPower 0 i))
  rw [Rom.ALPHA_TO, hi, List.getD_eq_getElem?_getD, hp, Nat.zero_add]; rfl

theorem INDEX_OF_ALPHA_TO {i : Byte} (h : i ≠ Rom.A0) : Rom.INDEX_OF (Rom.ALPHA_TO i) = i := by
  have packed : ∀ j : Byte, j ≠ 255#8 → Rom.indexPacked (Rom.alphaPacked j) = j := by decide +kernel
  rw [Rom.INDEX_OF_eq_indexPacked, Rom.ALPHA_TO_eq_alphaPacked]
  exact packed i h

theorem INDEX_OF_ne_A0 {v : Byte} (h : v ≠ 0#8) : Rom.INDEX_OF v ≠ Rom.A0 := by
  have packed : ∀ u : Byte, u ≠ 0#8 → Rom.indexPacked u ≠ 255#8 := by decide +kernel
  exact Rom.INDEX_OF_eq_indexPacked v ▸ packed v h

theorem ALPHA_TO_INDEX_OF {v : Byte} (h : v ≠ 0#8) : Rom.ALPHA_TO (Rom.INDEX_OF v) = v := by
  have packed : ∀ u : Byte, u ≠ 0#8 → Rom.alphaPacked (Rom.indexPacked u) = u := by decide +kernel
  rw [Rom.INDEX_OF_eq_indexPacked, Rom.ALPHA_TO_eq_alphaPacked]
  exact packed v h

/-- A nonzero byte is the power of α that its log names. -/
theorem alphaPower_INDEX_OF {v : Byte} (h : v ≠ 0#8) : Rom.alphaPower (Rom.INDEX_OF v).toNat = v := by
  have hlt : (Rom.INDEX_OF v).toNat ≤ 254 := by
    have hne : (Rom.INDEX_OF v).toNat ≠ 255 := fun h' => INDEX_OF_ne_A0 h (BitVec.eq_of_toNat_eq h')
    omega
  rw [← ALPHA_TO_ofNat hlt, BitVec.ofNat_toNat, BitVec.setWidth_eq, ALPHA_TO_INDEX_OF h]

/-- `α^255` is 1, so only the exponent modulo 255 counts (R172). -/
theorem alphaPower_mod255 (n : Nat) : Rom.alphaPower (mod255 n) = Rom.alphaPower n := by
  have hone : Rom.alphaPower 255 = 1#8 := by decide +kernel
  have hperiod : Function.Periodic Rom.alphaPower 255 := fun k => by
    rw [Nat.add_comm, ← timesAlphaPower_alphaPower, hone]
    exact (timesAlphaPower_alphaPower 0 k).trans (by rw [Nat.zero_add])
  exact hperiod.map_mod_nat n

theorem antilog_eq_alphaPower (n : Nat) : antilog n = Rom.alphaPower n := by
  have hlt : mod255 n < 255 := Nat.mod_lt n (by decide)
  rw [antilog, ALPHA_TO_ofNat (by omega), alphaPower_mod255]

/-! ### The polynomial product (R47, R171) -/

/-- A term taken on the exclusive or of two bits is the sum of the terms taken on each. -/
theorem cond_xor_term (p q : Bool) (t : Byte) : (bif p ^^ q then t else 0#8) = (bif p then t else 0#8) ^^^ bif q then t else 0#8 := by
  cases p <;> cases q <;> simp

/-- Multiplication by α is additive: the reduction by FIELD_POLY is decided by the top bit. -/
theorem timesAlpha_xor (a b : Byte) : Rom.timesAlpha (a ^^^ b) = Rom.timesAlpha a ^^^ Rom.timesAlpha b := by
  have by_top_bit : ∀ v : Byte, Rom.timesAlpha v = v <<< 1 ^^^ bif v.getLsbD 7 then 0x87#8 else 0#8 := by decide +kernel
  simp only [by_top_bit, BitVec.shiftLeft_xor_distrib, BitVec.getLsbD_xor, cond_xor_term]
  ac_rfl

/-- The product is additive in its first factor, bit by bit of the sum that defines it. -/
theorem polynomialProduct_xor_left (a a' b : Byte) :
    polynomialProduct (a ^^^ a') b = polynomialProduct a b ^^^ polynomialProduct a' b := by
  have add_term (p : Bool) (acc t : Byte) : (if p then gadd acc t else acc) = acc ^^^ bif p then t else 0#8 := by
    cases p <;> simp [gadd]
  have over_bits (is : List Nat) (x y : Byte) :
      is.foldl (fun acc i => acc ^^^ bif (a ^^^ a').getLsbD i then timesAlphaPower b i else 0#8) (x ^^^ y) =
        is.foldl (fun acc i => acc ^^^ bif a.getLsbD i then timesAlphaPower b i else 0#8) x ^^^
          is.foldl (fun acc i => acc ^^^ bif a'.getLsbD i then timesAlphaPower b i else 0#8) y := by
    induction is generalizing x y with
    | nil => rfl
    | cons i is ih =>
      simp only [List.foldl_cons, ← ih, BitVec.getLsbD_xor, cond_xor_term]
      congr 1
      ac_rfl
  simp only [polynomialProduct, add_term]
  exact over_bits (List.range 8) 0#8 0#8

theorem polynomialProduct_one_right (a : Byte) : polynomialProduct a 1#8 = a := by
  revert a; decide +kernel

theorem polynomialProduct_zero_left (b : Byte) : polynomialProduct 0#8 b = 0#8 := by
  simpa using polynomialProduct_xor_left 0#8 0#8 b

/-- Every byte is a sum of the powers `α^0` to `α^7`, which are its bits. -/
theorem byte_xor_induction {P : Byte → Prop} (zero : P 0#8) (xor : ∀ x y, P x → P y → P (x ^^^ y))
    (power : ∀ i ∈ List.range 8, P (timesAlphaPower 1#8 i)) (a : Byte) : P a := by
  rw [← polynomialProduct_one_right a]
  refine List.foldlRecOn (List.range 8) _ zero fun acc hacc i hi => ?_
  split
  · exact xor _ _ hacc (power i hi)
  · exact hacc

/-- A factor α of the first factor comes out of the product: it does for `α^0` to `α^7`, and both sides are additive in `a`. -/
theorem polynomialProduct_timesAlpha_left (a b : Byte) :
    polynomialProduct (Rom.timesAlpha a) b = Rom.timesAlpha (polynomialProduct a b) := by
  induction a using byte_xor_induction with
  | zero => rw [polynomialProduct_zero_left]; exact polynomialProduct_zero_left b
  | xor x y hx hy => rw [timesAlpha_xor, polynomialProduct_xor_left, hx, hy, polynomialProduct_xor_left, timesAlpha_xor]
  | power i hi => revert i b; decide +kernel

theorem polynomialProduct_alphaPower_left (i : Nat) (b : Byte) : polynomialProduct (Rom.alphaPower i) b = timesAlphaPower b i := by
  induction i with
  | zero => revert b; decide +kernel
  | succ i ih => exact (polynomialProduct_timesAlpha_left _ b).trans (congrArg Rom.timesAlpha ih)

theorem polynomialProduct_zero_right (a : Byte) : polynomialProduct a 0#8 = 0#8 := by
  revert a; decide +kernel

theorem gmul_eq_polynomialProduct (a b : Byte) : gmul a b = polynomialProduct a b := by
  by_cases ha : a = 0#8
  · subst ha; exact (polynomialProduct_zero_left b).symm
  · by_cases hb : b = 0#8
    · subst hb; rw [polynomialProduct_zero_right]; simp [gmul]
    · calc gmul a b = Rom.alphaPower ((Rom.INDEX_OF a).toNat + (Rom.INDEX_OF b).toNat) := by
            rw [gmul, if_neg (by simp [ha, hb]), antilog_eq_alphaPower]
        _ = timesAlphaPower (Rom.alphaPower (Rom.INDEX_OF b).toNat) (Rom.INDEX_OF a).toNat := by
            rw [timesAlphaPower_alphaPower, Nat.add_comm]
        _ = polynomialProduct (Rom.alphaPower (Rom.INDEX_OF a).toNat) (Rom.alphaPower (Rom.INDEX_OF b).toNat) :=
            (polynomialProduct_alphaPower_left _ _).symm
        _ = polynomialProduct a b := by rw [alphaPower_INDEX_OF ha, alphaPower_INDEX_OF hb]

/-! ### The generator (R49, R50) -/

theorem gmul_one_left (a : Byte) : gmul 1#8 a = a :=
  (gmul_eq_polynomialProduct 1#8 a).trans (polynomialProduct_alphaPower_left 0 a)

/-- Adding polynomials of neighbouring lengths is adding coefficients, the shorter one filled up with a zero. -/
theorem polyAdd_eq_zipWith (p q : Poly) (h : q.length = p.length + 1) : polyAdd p q = List.zipWith gadd q (p ++ [0#8]) := by
  induction p generalizing q with
  | nil =>
    obtain ⟨b, rfl⟩ := List.length_eq_one_iff.1 h
    simp [polyAdd, gadd]
  | cons x p ih =>
    cases q with
    | nil => cases h
    | cons b q => simp [polyAdd, ih q (by simpa using h), gadd, BitVec.xor_comm]

/-- The product with `x + r` is one root's factor as the generator ROM applies it. -/
theorem polyMul_root_eq_timesRootFactor (r : Byte) {g : Poly} (h : g ≠ []) : polyMul [r, 1#8] g = Rom.timesRootFactor g r := by
  have hone : polyMul [1#8] g = g := by
    have hid : gmul 1#8 = id := funext gmul_one_left
    cases g with
    | nil => exact absurd rfl h
    | cons a g => cases g <;> simp [polyMul, polyAdd, gadd, hid]
  have hmap : g.map (gmul r) = g.map (polynomialProduct r) := List.map_congr_left fun a _ => gmul_eq_polynomialProduct r a
  rw [polyMul, hone, hmap, polyAdd_eq_zipWith _ _ (by simp)]; rfl

theorem timesRootFactor_ne_nil (g : Poly) (r : Byte) : Rom.timesRootFactor g r ≠ [] := by
  cases g <;> simp [Rom.timesRootFactor]

/-- The coefficients from which the generator ROM is computed are those of the product of the roots' factors (R49). -/
theorem generatorOfRoots_eq_generatorCoefficients : generatorOfRoots = Rom.generatorCoefficients := by
  have by_factors (is : List Nat) (g : Poly) (h : g ≠ []) :
      is.foldl (fun g i => polyMul [codeRoot i, 1#8] g) g = (is.map codeRoot).foldl Rom.timesRootFactor g := by
    induction is generalizing g with
    | nil => rfl
    | cons i is ih =>
      rw [List.foldl_cons, List.map_cons, List.foldl_cons, polyMul_root_eq_timesRootFactor _ h]
      exact ih _ (timesRootFactor_ne_nil g _)
  exact by_factors (List.range 32) [1#8] (by simp)

/-- The palindrome of R50: a coefficient and its mirror image are read from one place of the half table. -/
theorem fullGenerator_palindrome {k : Nat} (h : k ≤ 32) : Rom.fullGenerator k = Rom.fullGenerator (32 - k) := by
  have hmirror : termIndex k = termIndex (32 - k) := Fin.ext (show min k (32 - k) = min (32 - k) (32 - (32 - k)) by omega)
  rw [← GENPOLY_termIndex k h, ← GENPOLY_termIndex (32 - k) (by omega), hmirror]

theorem fullGenerator_of_half (j : Fin Config.halfGeneratorLength) : Rom.fullGenerator j.val = Rom.GENPOLY j :=
  dif_pos (Nat.le_of_lt_succ j.isLt)

/-- The antilogs of the full table are the 33 coefficients, which are palindromic themselves. -/
theorem generator_eq_generatorCoefficients : generator = Rom.generatorCoefficients := by
  have printed : (List.range 33).map (fun k => Rom.alphaPacked (Rom.generatorImage[(termIndex k).val])) = Rom.generatorCoefficients := by
    decide +kernel
  rw [← printed]
  refine List.map_congr_left fun k hk => ?_
  rw [Rom.ALPHA_TO_eq_alphaPacked, ← GENPOLY_termIndex k (Nat.le_of_lt_succ (List.mem_range.1 hk)), Rom.GENPOLY_eq_image]

/-! ### Repeating a command (R58) -/

/-- A command repeated where it reads what it read before has the same effect once more: it changes nothing further and gives the same
response. -/
theorem exec_repeat {i : Instr} {s t : State} (h : exec i s = .next t) (ha : AgreeOnReads i s t) :
    ∃ (u : State) (r : ResponseWord), exec i t = .next u ∧ u.st = t.st ∧ t.responses = s.responses ++ [r] ∧
      u.responses = s.responses ++ [r, r] := by
  obtain ⟨e, he⟩ := exec_effect i s
  obtain rfl := next_injective (h.symm.trans (he s (.refl i s)))
  have or_again {α : Type} (v a : Option α) : v.or (v.or a) = v.or a := by cases v <;> rfl
  exact ⟨e.applyTo (e.applyTo s), e.response, he _ ha, by simp [State.st, Effect.applyTo, or_again], rfl, by simp [Effect.applyTo]⟩

/-- A command that reads no unset field records no fault. -/
theorem fault_unchanged {i : Instr} {s t : State} (hu : unsetFault i s = none) (h : exec i s = .next t) : t.fault = s.fault := by
  obtain ⟨c, -, hx⟩ | ⟨-, c, hc, -⟩ | ⟨hf, -, u, st, d, x, hc⟩ := exec_cases i s
  · rw [next_injective (h.symm.trans hx), answered_fault]
  · cases hu.symm.trans hc
  · rw [next_injective (h.symm.trans hc.answer), answered_fault, hc.fault, hf]

/-- A command that reads no field is idempotent. -/
theorem exec_repeat_of_reads_nothing {i : Instr} {s t : State} (he : readsEncRd i = false) (hd : readsDecRd i = false)
    (hp : readsParity i = false) (h : exec i s = .next t) : ∃ u, exec i t = .next u ∧ u.st = t.st := by
  have hf : t.fault = s.fault := fault_unchanged (by simp [unsetFault, he, hd, hp]) h
  obtain ⟨u, -, hu, hst, -, -⟩ := exec_repeat h ⟨hf.symm, by simp [he], by simp [hd], by simp [hp]⟩
  exact ⟨u, hu, hst⟩

/-- A command that writes no field leaves the block as it was, unless it faults. -/
theorem block_unchanged_of_writes_nothing {i : Instr} {s t : State} (he : writesEncRd i = false) (hd : writesDecRd i = false)
    (hp : writesParity i = false) (h : exec i s = .next t) (ht : t.fault = none) : t.st = s.st := by
  obtain ⟨hf, -⟩ | ⟨hf, -, u, st, d, x, hc, rfl⟩ := next_faults_or_completes h
  · exact absurd ht hf
  · simp [State.st, hc.encRd he, hc.decRd hd, hc.parity hp, hc.fault, hf]

theorem agreeOnReads_of_st_eq (i : Instr) {s t : State} (h : t.st = s.st) : AgreeOnReads i s t := by
  obtain ⟨he, hd, hp, hf⟩ : t.encRd = s.encRd ∧ t.decRd = s.decRd ∧ t.parity = s.parity ∧ t.fault = s.fault := by
    simpa [State.st] using h
  exact ⟨hf.symm, fun _ => he.symm, fun _ => hd.symm, fun _ => hp.symm⟩

/-- The end of the frame at the decoder's disparity: SYNC, and the other disparity (R135). -/
theorem exec_decValidate_sync {s : State} {r : Disparity} (hf : s.fault = none) (hd : s.decRd = some r) :
    exec (.decValidate (syncWordAt r)) s =
      .next ((s.setDecRd (flipRd r)).answered (packResponse .sync (flipRd r).bit (syncWordAt r))) := by
  simp [exec, execDecValidate, gate_of_none hf, readDecRd, hd, romFindRow_syncWordAt]

/-- The end of the frame at the other disparity: RD_ERROR_SYNC, and the disparity which that word leaves (R135). -/
theorem exec_decValidate_rdErrorSync {s : State} {r : Disparity} (hf : s.fault = none) (hd : s.decRd = some r) :
    exec (.decValidate (syncWordAt (flipRd r))) s =
      .next ((s.setDecRd r).answered (packResponse .rdErrorSync r.bit (syncWordAt (flipRd r)))) := by
  have hne : syncWordAt (flipRd r) ≠ syncWordAt r := by cases r <;> decide
  simp [exec, execDecValidate, gate_of_none hf, readDecRd, hd, romFindRow_syncWordAt, hne]

end Sys2Proof.Machine

/-! ### The statements -/

namespace Sys2Proof.Proofs

open Sys2Proof.Machine

/-- Settles O7: the byte is read back from its word, so a word names one byte and the search can find no other; the whole word has five
ones, or one more or less against the starting disparity. -/
theorem symbolRomProperties : Obligations.SymbolRomProperties :=
  ⟨fun _ _ _ => entryWord_injective, fun _ _ _ _ => entryWord_injective, symbolRom_word_count, entry_balance, shared_word_count,
    fun r _ h => shared_word_keeps_disparity h r, fun r b => ⟨entryWord_ne_syncWordAt r .neg b, entryWord_ne_syncWordAt r .pos b⟩,
    romFind_entryWord⟩

/-- Settles O8: the invariant of the line, for the first symbol from an empty line and for the second after it. -/
theorem noRunOfMoreThanFiveEqualBits : Obligations.NoRunOfMoreThanFiveEqualBits := by
  intro r x y
  obtain ⟨hx, hcarried⟩ := symbol_keeps_runs_short r x true (Nat.zero_le _)
  obtain ⟨hy, -⟩ := symbol_keeps_runs_short (symbolNext r x) y _ hcarried
  rw [longestRun_eq_from_empty_run true, longestRunFrom_append]
  exact max_le hx hy

/-- Settles O12: both products of `α^i` and `b` are `b` multiplied `i` times by α. -/
theorem productByLogsIsThePolynomialProduct : Obligations.ProductByLogsIsThePolynomialProduct := gmul_eq_polynomialProduct

/-- Settles O49: an observing command writes nothing, so it reads the same again; a command that reads nothing is idempotent; each of the
four others is repeated on a state it changes twice, or answers differently. -/
theorem observingAndIdempotentCommands : Obligations.ObservingAndIdempotentCommands := by
  refine ⟨fun i s t hi h ht => ?_, fun i s t hi h => ?_, ?_, ?_, ?_, ?_⟩
  · obtain ⟨he, hd, hp⟩ : writesEncRd i = false ∧ writesDecRd i = false ∧ writesParity i = false := by
      obtain rfl | ⟨c, w, rfl⟩ | ⟨w, rfl⟩ | ⟨w, rfl⟩ | rfl | ⟨k, rfl⟩ := hi <;> exact ⟨rfl, rfl, rfl⟩
    have hst := block_unchanged_of_writes_nothing he hd hp h ht
    obtain ⟨u, r, hu, -, hr⟩ := exec_repeat h (agreeOnReads_of_st_eq i hst)
    exact ⟨hst, u, r, hu, hr⟩
  · obtain ⟨he, hd, hp⟩ : readsEncRd i = false ∧ readsDecRd i = false ∧ readsParity i = false := by
      obtain ⟨d, rfl⟩ | ⟨d, rfl⟩ | rfl := hi <;> exact ⟨rfl, rfl, rfl⟩
    exact exec_repeat_of_reads_nothing he hd hp h
  · exact ⟨0x03#8, { State.reset with encRd := some .neg }, _, _, rfl, rfl, by decide +kernel⟩
  · exact ⟨{ State.reset with encRd := some .neg }, _, _, rfl, rfl, by decide +kernel⟩
  · exact ⟨syncWordAt .neg, { State.reset with decRd := some .neg }, _, _, exec_decValidate_sync rfl rfl,
      exec_decValidate_rdErrorSync (r := .pos) rfl rfl, .inl (by decide +kernel)⟩
  · exact ⟨0x01#8, { State.reset with parity := some zeroParity }, _, _, rfl, rfl, by decide +kernel⟩

/-- Settles O6. -/
theorem symbolRomIsTheConstructedCode : Obligations.SymbolRomIsTheConstructedCode := SYM_eq_constructedEntry

/-- Settles O9. -/
theorem syncWordsAreComplementsOffByTwo : Obligations.SyncWordsAreComplementsOffByTwo :=
  ⟨rfl, rfl, by decide, by decide, by decide, by decide,
    fun r b => ⟨entryWord_ne_syncWordAt r .neg b, entryWord_ne_syncWordAt r .pos b⟩, fun w => ⟨rfl, comp10_comp10 w⟩⟩

/-- Settles O10. -/
theorem fieldRomsAreAntilogAndLog : Obligations.FieldRomsAreAntilogAndLog := by
  refine ⟨fun i hi => ALPHA_TO_ofNat hi, fun i hi => ?_, ALPHA_TO_ofNat (i := 1) (by decide), ?_, rfl, rfl, fun i hi => ?_,
    fun v hv => ⟨INDEX_OF_ne_A0 hv, ALPHA_TO_INDEX_OF hv⟩, Rom.ALPHA_TO_eq_image, Rom.INDEX_OF_eq_image⟩
  · rw [ALPHA_TO_ofNat hi, ALPHA_TO_ofNat hi.le]; rfl
  · rw [Rom.ALPHA_TO_eq_alphaPacked]; decide +kernel
  · refine INDEX_OF_ALPHA_TO fun h => ?_
    have : i % 256 = 255 := congrArg BitVec.toNat h
    omega

/-- Settles O11: the coefficients behind the ROM are the product's, and they are the antilogs of the full table. -/
theorem generatorIsTheProductOfItsRoots : Obligations.GeneratorIsTheProductOfItsRoots := by
  have half : (List.finRange 17).map Rom.GENPOLY = (List.finRange 17).map (fun j => Rom.generatorImage[j.val]) :=
    List.map_congr_left fun j _ => Rom.GENPOLY_eq_image j
  have no_sentinel : ∀ j : Fin Config.halfGeneratorLength, Rom.generatorImage[j.val] ≠ Rom.A0 := by decide +kernel
  refine ⟨half.trans (by decide +kernel), generator_eq_generatorCoefficients.trans generatorOfRoots_eq_generatorCoefficients.symm,
    by simp [generator], ?_, fun k hk => fullGenerator_palindrome hk, fun j => ⟨?_, fullGenerator_of_half j⟩⟩
  · rw [generator_eq_generatorCoefficients]; decide +kernel
  · rw [Rom.GENPOLY_eq_image]; exact no_sentinel j

/-- Settles O15: `withFetchWord` puts a word at the head that decodes to the command it encodes. -/
theorem stepRunsTheDecodedCommand : Obligations.StepRunsTheDecodedCommand :=
  ⟨fun _ _ _ _ => step_of_command, fun s i =>
    step_of_command (rest := s.events) (congrArg (fun w => HostEvent.command w :: s.events) (tableCommandWord_toNat (encode i)))
      (decode_encode i)⟩

end Sys2Proof.Proofs
end

section
/-! SUPPORT. The command word both ways (R70 to R75): each format's decoder by what it checks and hands on, so that `decode` is the
inverse of `encode` on exactly the words of R74, and the responses every command gives (R76 to R78). Then the statements of
spec/30_encoding.md. -/

namespace Sys2Proof

/-! ### A word is packed from its fields (R70, R71) -/

section
variable {w : CommandWord}

/-- A word is its fields in a row, the reserved bit being zero. -/
theorem eq_packCommand_of_reserved (hz : cmdReserved w = 0#1) : w = packCommand (cmdOp w) (cmdFlag w) (cmdWord w) := by
  calc w = cmdOp w ++ cmdFlag w ++ cmdReserved w ++ cmdWord w := by
        simp only [cmdOp, cmdFlag, cmdReserved, cmdWord]
        rw [BitVec.extractLsb'_append_extractLsb'_eq_extractLsb' (by rfl), BitVec.extractLsb'_append_extractLsb'_eq_extractLsb' (by rfl),
          BitVec.extractLsb'_append_extractLsb'_eq_extractLsb' (by rfl)]
        exact BitVec.extractLsb'_eq_self.symm
    _ = packCommand (cmdOp w) (cmdFlag w) (cmdWord w) := by rw [hz, packCommand]

/-- Where the bits above a low field are zero, the field that spans them is the low one with zeros above it. -/
theorem extractLsb'_of_zero_above {len above : Nat} (h : w.extractLsb' len above = 0#above) :
    w.extractLsb' 0 (above + len) = (w.extractLsb' 0 len).setWidth (above + len) := by
  rw [← BitVec.extractLsb'_append_extractLsb'_eq_extractLsb' (Nat.zero_add len).symm, h]
  ext j hj
  simp only [BitVec.getElem_append, BitVec.getElem_zero, BitVec.getElem_setWidth]
  split
  · next hlt => exact (BitVec.getLsbD_eq_getElem hlt).symm
  · next hge => exact (BitVec.getLsbD_of_ge _ _ (by omega)).symm

theorem cmdWord_eq_cmdByte (h : w.extractLsb' 8 2 = 0#2) : cmdWord w = (cmdByte w).setWidth 10 := extractLsb'_of_zero_above h

theorem cmdWord_eq_cmdIdx (h : w.extractLsb' 5 5 = 0#5) : cmdWord w = (cmdIdx w).setWidth 10 := extractLsb'_of_zero_above h

theorem bit_ofBit (b : BitVec 1) : (Disparity.ofBit b).bit = b := by revert b; decide

theorem ofBool_beq_one_self (b : BitVec 1) : BitVec.ofBool (b == 1#1) = b := by revert b; decide

/-! ### What each format accepts (R72) -/

variable {i : Instr}

theorem formatB_eq_ok_iff {k : Byte → Instr} :
    formatB w k = .ok i ↔ cmdReserved w = 0#1 ∧ cmdFlag w = 0#1 ∧ w.extractLsb' 8 2 = 0#2 ∧ k (cmdByte w) = i := by
  grind [formatB]

theorem formatN_eq_ok_iff {j : Instr} :
    formatN w j = .ok i ↔ cmdReserved w = 0#1 ∧ cmdFlag w = 0#1 ∧ cmdWord w = 0#10 ∧ j = i := by
  grind [formatN]

theorem formatS_eq_ok_iff {k : Disparity → Instr} :
    formatS w k = .ok i ↔ cmdReserved w = 0#1 ∧ cmdWord w = 0#10 ∧ k (Disparity.ofBit (cmdFlag w)) = i := by
  grind [formatS]

theorem formatW_eq_ok_iff {k : ChannelWord → Instr} :
    formatW w k = .ok i ↔ cmdReserved w = 0#1 ∧ cmdFlag w = 0#1 ∧ k (cmdWord w) = i := by
  grind [formatW]

theorem formatWC_eq_ok_iff {k : Bool → ChannelWord → Instr} :
    formatWC w k = .ok i ↔ cmdReserved w = 0#1 ∧ k (cmdFlag w == 1#1) (cmdWord w) = i := by
  grind [formatWC]

theorem formatI_eq_ok_iff {k : BitVec 5 → Instr} :
    formatI w k = .ok i ↔ cmdReserved w = 0#1 ∧ cmdFlag w = 0#1 ∧ w.extractLsb' 5 5 = 0#5 ∧ k (cmdIdx w) = i := by
  grind [formatI]

end

/-! ### The words that a format reads as commands are the ones it encodes -/

section
variable {w : CommandWord} {i : Instr} {n : Nat} (hop : (cmdOp w).toNat = n)
include hop

theorem cmdOp_of_toNat : cmdOp w = BitVec.ofNat 4 n := by
  rw [← hop, BitVec.ofNat_toNat, BitVec.setWidth_eq]

/-- The word by its opcode, as `decode` names it, and its other fields. -/
theorem packCommand_of_opcode (hz : cmdReserved w = 0#1) : packCommand (BitVec.ofNat 4 n) (cmdFlag w) (cmdWord w) = w := by
  rw [← cmdOp_of_toNat hop, ← eq_packCommand_of_reserved hz]

theorem formatB_ok {k : Byte → Instr} (h : formatB w k = .ok i) :
    ∃ b, k b = i ∧ packCommand (BitVec.ofNat 4 n) 0#1 (b.setWidth 10) = w := by
  obtain ⟨hz, hf, ho, hi⟩ := formatB_eq_ok_iff.1 h
  exact ⟨cmdByte w, hi, by rw [← hf, ← cmdWord_eq_cmdByte ho, packCommand_of_opcode hop hz]⟩

theorem formatN_ok {j : Instr} (h : formatN w j = .ok i) : j = i ∧ packCommand (BitVec.ofNat 4 n) 0#1 0#10 = w := by
  obtain ⟨hz, hf, ho, hi⟩ := formatN_eq_ok_iff.1 h
  exact ⟨hi, by rw [← hf, ← ho, packCommand_of_opcode hop hz]⟩

theorem formatS_ok {k : Disparity → Instr} (h : formatS w k = .ok i) :
    ∃ d, k d = i ∧ packCommand (BitVec.ofNat 4 n) d.bit 0#10 = w := by
  obtain ⟨hz, ho, hi⟩ := formatS_eq_ok_iff.1 h
  exact ⟨_, hi, by rw [bit_ofBit, ← ho, packCommand_of_opcode hop hz]⟩

theorem formatW_ok {k : ChannelWord → Instr} (h : formatW w k = .ok i) :
    ∃ x, k x = i ∧ packCommand (BitVec.ofNat 4 n) 0#1 x = w := by
  obtain ⟨hz, hf, hi⟩ := formatW_eq_ok_iff.1 h
  exact ⟨_, hi, by rw [← hf, packCommand_of_opcode hop hz]⟩

theorem formatWC_ok {k : Bool → ChannelWord → Instr} (h : formatWC w k = .ok i) :
    ∃ c x, k c x = i ∧ packCommand (BitVec.ofNat 4 n) (BitVec.ofBool c) x = w := by
  obtain ⟨hz, hi⟩ := formatWC_eq_ok_iff.1 h
  exact ⟨_, _, hi, by rw [ofBool_beq_one_self, packCommand_of_opcode hop hz]⟩

theorem formatI_ok {k : BitVec 5 → Instr} (h : formatI w k = .ok i) :
    ∃ x, k x = i ∧ packCommand (BitVec.ofNat 4 n) 0#1 (x.setWidth 10) = w := by
  obtain ⟨hz, hf, ho, hi⟩ := formatI_eq_ok_iff.1 h
  exact ⟨cmdIdx w, hi, by rw [← hf, ← cmdWord_eq_cmdIdx ho, packCommand_of_opcode hop hz]⟩

end

theorem encode_of_decode {w : CommandWord} {i : Instr} (h : decode w = .ok i) : encode i = w := by
  unfold decode at h
  split at h
  case h_1 hop | h_12 hop => obtain ⟨b, rfl, hw⟩ := formatB_ok hop h; exact hw
  case h_2 hop | h_4 hop | h_10 hop | h_11 hop => obtain ⟨rfl, hw⟩ := formatN_ok hop h; exact hw
  case h_3 hop | h_9 hop => obtain ⟨d, rfl, hw⟩ := formatS_ok hop h; exact hw
  case h_5 hop => obtain ⟨c, x, rfl, hw⟩ := formatWC_ok hop h; exact hw
  case h_6 hop | h_7 hop | h_8 hop => obtain ⟨x, rfl, hw⟩ := formatW_ok hop h; exact hw
  case h_13 hop => obtain ⟨x, rfl, hw⟩ := formatI_ok hop h; exact hw
  case h_14 => cases h

theorem decode_eq_ok_iff {w : CommandWord} {i : Instr} : decode w = .ok i ↔ encode i = w :=
  ⟨encode_of_decode, fun h => h ▸ decode_encode i⟩

theorem encode_injective : Function.Injective encode := fun i j h => by
  injection (decode_encode i).symm.trans ((congrArg decode h).trans (decode_encode j))

/-! ### The illegal words, case by case (R74) -/

/-- R74 (a) to (f), in the spec's order. -/
def IllegalByFields (w : CommandWord) : Prop :=
  (cmdOp w = 0x0#4 ∨ cmdOp w = 0xE#4 ∨ cmdOp w = 0xF#4) ∨
    cmdReserved w = 1#1 ∨
    (cmdFlag w = 1#1 ∧ cmdOp w ≠ 0x5#4 ∧ cmdOp w ≠ 0x3#4 ∧ cmdOp w ≠ 0x9#4) ∨
    ((cmdOp w = 0x1#4 ∨ cmdOp w = 0xC#4) ∧ w.extractLsb' 8 2 ≠ 0#2) ∨
    (cmdOp w = 0xD#4 ∧ w.extractLsb' 5 5 ≠ 0#5) ∨
    ((cmdOp w = 0x2#4 ∨ cmdOp w = 0x3#4 ∨ cmdOp w = 0x4#4 ∨ cmdOp w = 0x9#4 ∨ cmdOp w = 0xA#4 ∨ cmdOp w = 0xB#4) ∧
      cmdWord w ≠ 0#10)

theorem bit_ne_zero_iff (b : BitVec 1) : ¬ b = 0#1 ↔ b = 1#1 := by revert b; decide

theorem illegal_iff_fields (w : CommandWord) : (∀ i, decode w ≠ .ok i) ↔ IllegalByFields w := by
  rw [← not_exists, IllegalByFields]
  unfold decode
  split
  case h_1 hop | h_12 hop => simp [cmdOp_of_toNat hop, formatB_eq_ok_iff, ← bit_ne_zero_iff, imp_iff_not_or]
  case h_2 hop | h_4 hop | h_10 hop | h_11 hop => simp [cmdOp_of_toNat hop, formatN_eq_ok_iff, ← bit_ne_zero_iff, imp_iff_not_or]
  case h_3 hop | h_9 hop => simp [cmdOp_of_toNat hop, formatS_eq_ok_iff, ← bit_ne_zero_iff, imp_iff_not_or]
  case h_5 hop => simp [cmdOp_of_toNat hop, formatWC_eq_ok_iff, ← bit_ne_zero_iff]
  case h_6 hop | h_7 hop | h_8 hop => simp [cmdOp_of_toNat hop, formatW_eq_ok_iff, ← bit_ne_zero_iff, imp_iff_not_or]
  case h_13 hop => simp [cmdOp_of_toNat hop, formatI_eq_ok_iff, ← bit_ne_zero_iff, imp_iff_not_or]
  case h_14 =>
    have reserved : cmdOp w = 0x0#4 ∨ cmdOp w = 0xE#4 ∨ cmdOp w = 0xF#4 := by
      simp only [imp_false] at *
      bv_omega
    simp [reserved]

/-! ### The opcode map and the decoder (R73, R74) -/

/-- A field that a row's mask covers is the field of the row's match. -/
theorem field_of_selects {row : OpcodeRow} {w : CommandWord} (h : row.selects w = true) (start len : Nat)
    (hm : row.maskBits.extractLsb' start len = BitVec.allOnes len) :
    w.extractLsb' start len = row.matchBits.extractLsb' start len := by
  have hw : w &&& row.maskBits = row.matchBits := eq_of_beq h
  rw [← hw, BitVec.extractLsb'_and, hm, BitVec.and_allOnes]

theorem decodes_of_selects {row : OpcodeRow} {w : CommandWord} (hrow : row ∈ opcodeRows) (h : row.selects w = true) :
    ∃ i, decode w = .ok i := by
  have field := field_of_selects h
  have hop (hm : cmdOp row.maskBits = 0xF#4) : cmdOp w = cmdOp row.matchBits := field 12 4 hm
  unfold decode
  simp only [opcodeRows, List.mem_cons, List.not_mem_nil, or_false] at hrow
  obtain rfl | rfl | rfl | rfl | rfl | rfl | rfl | rfl | rfl | rfl | rfl | rfl | rfl := hrow <;> rw [hop rfl]
  · exact ⟨_, formatB_eq_ok_iff.2 ⟨field 10 1 rfl, field 11 1 rfl, field 8 2 rfl, rfl⟩⟩
  · exact ⟨_, formatN_eq_ok_iff.2 ⟨field 10 1 rfl, field 11 1 rfl, field 0 10 rfl, rfl⟩⟩
  · exact ⟨_, formatS_eq_ok_iff.2 ⟨field 10 1 rfl, field 0 10 rfl, rfl⟩⟩
  · exact ⟨_, formatN_eq_ok_iff.2 ⟨field 10 1 rfl, field 11 1 rfl, field 0 10 rfl, rfl⟩⟩
  · exact ⟨_, formatWC_eq_ok_iff.2 ⟨field 10 1 rfl, rfl⟩⟩
  · exact ⟨_, formatW_eq_ok_iff.2 ⟨field 10 1 rfl, field 11 1 rfl, rfl⟩⟩
  · exact ⟨_, formatW_eq_ok_iff.2 ⟨field 10 1 rfl, field 11 1 rfl, rfl⟩⟩
  · exact ⟨_, formatW_eq_ok_iff.2 ⟨field 10 1 rfl, field 11 1 rfl, rfl⟩⟩
  · exact ⟨_, formatS_eq_ok_iff.2 ⟨field 10 1 rfl, field 0 10 rfl, rfl⟩⟩
  · exact ⟨_, formatN_eq_ok_iff.2 ⟨field 10 1 rfl, field 11 1 rfl, field 0 10 rfl, rfl⟩⟩
  · exact ⟨_, formatN_eq_ok_iff.2 ⟨field 10 1 rfl, field 11 1 rfl, field 0 10 rfl, rfl⟩⟩
  · exact ⟨_, formatB_eq_ok_iff.2 ⟨field 10 1 rfl, field 11 1 rfl, field 8 2 rfl, rfl⟩⟩
  · exact ⟨_, formatI_eq_ok_iff.2 ⟨field 10 1 rfl, field 11 1 rfl, field 5 5 rfl, rfl⟩⟩

open Laws in
theorem selectedRows_encode (i : Instr) : (selectedRows (encode i)).map OpcodeRow.mnemonic = [i.mnemonic] := by
  cases i with
  | encByte b => exact SelectsOwnRow.encByte b
  | encEof => exact SelectsOwnRow.encEof
  | encSetRd d => exact SelectsOwnRow.encSetRd d
  | encGetRd => exact SelectsOwnRow.encGetRd
  | decSymbol c x => exact SelectsOwnRow.decSymbol c x
  | decDisparityOf x => exact SelectsOwnRow.decDisparityOf x
  | decNextDisparity x => exact SelectsOwnRow.decNextDisparity x
  | decValidate x => exact SelectsOwnRow.decValidate x
  | decSetRd d => exact SelectsOwnRow.decSetRd d
  | decGetRd => exact SelectsOwnRow.decGetRd
  | rsReset => exact SelectsOwnRow.rsReset
  | rsUpdate b => exact SelectsOwnRow.rsUpdate b
  | rsRead k => exact SelectsOwnRow.rsRead k

theorem decodes_iff_selects_one_row (w : CommandWord) : (∃ i, decode w = .ok i) ↔ (selectedRows w).length = 1 := by
  constructor
  · rintro ⟨i, h⟩
    rw [← encode_of_decode h]
    simpa using congrArg List.length (selectedRows_encode i)
  · intro h
    obtain ⟨row, hr⟩ := List.length_eq_one_iff.1 h
    obtain ⟨hrow, hsel⟩ := List.mem_filter.1 (hr ▸ List.mem_singleton_self row : row ∈ selectedRows w)
    exact decodes_of_selects hrow hsel

theorem legalWord_iff (w : CommandWord) : legalWord w = true ↔ ∃ i, encode i = w := by
  simp only [← decode_eq_ok_iff, decodes_iff_selects_one_row, legalWord, beq_iff_eq]

/-! ### How many words are commands (R74) -/

/-- The two disparities are the two values of their bit (R11). -/
def disparityEquivBit : Disparity ≃ BitVec 1 := ⟨Disparity.bit, Disparity.ofBit, Machine.ofBit_bit, bit_ofBit⟩

/-- A command is one of the thirteen rows with a value of that row's operands (R71, R73). -/
def operandsEquivInstr : (Byte ⊕ Unit ⊕ Disparity ⊕ Unit ⊕ ((_ : Bool) × ChannelWord) ⊕ ChannelWord ⊕ ChannelWord ⊕ ChannelWord ⊕
    Disparity ⊕ Unit ⊕ Unit ⊕ Byte ⊕ BitVec 5) ≃ Instr := proxy_equiv% Instr

theorem card_instr : Nat.card Instr = 5672 := by
  have card_bitVec (n : Nat) : Fintype.card (BitVec n) = 2 ^ n := FinEnum.card_eq_fintypeCard.symm
  have finite_disparity : Finite Disparity := .of_equiv _ disparityEquivBit.symm
  have card_disparity : Nat.card Disparity = 2 := Nat.card_congr disparityEquivBit |>.trans (by simp [card_bitVec])
  rw [← Nat.card_congr operandsEquivInstr]
  simp [Nat.card_sum, card_bitVec, card_disparity]

/-- Encoding is a bijection from the commands to the legal words. -/
theorem legalWord_count : (List.range 65536).countP (fun n => legalWord (BitVec.ofNat 16 n)) = Nat.card Instr := by
  have hinj : Function.Injective fun i => (encode i).toNat := fun i j h => encode_injective (BitVec.eq_of_toNat_eq h)
  have hmem : ((List.range 65536).filter fun n => legalWord (BitVec.ofNat 16 n)).toFinset =
      Set.range fun i => (encode i).toNat := by
    ext n
    simp only [List.coe_toFinset, List.mem_filter, List.mem_range, legalWord_iff, Set.mem_ofPred_eq, Set.mem_range]
    constructor
    · rintro ⟨hn, i, hi⟩
      exact ⟨i, by rw [hi]; exact Nat.mod_eq_of_lt hn⟩
    · rintro ⟨i, rfl⟩
      exact ⟨(encode i).isLt, i, by simp⟩
  rw [List.countP_eq_length_filter, ← List.toFinset_card_of_nodup (List.nodup_range.filter _), ← Set.ncard_coe_finset, hmem,
    ← Nat.card_coe_set_eq, Nat.card_range_of_injective hinj]

/-! ### The assembler (R79) -/

/-- A line assembles to a word that decodes to its command, or its operand is out of range and it assembles to no word. -/
theorem decode_assemble (l : Line) :
    l.assemble.bind (fun w => (decode w).toOption) = if l.wellFormed then some l.instr else none := by
  unfold Line.assemble
  split
  · exact congrArg Except.toOption (decode_encode l.instr)
  · rfl

theorem assemble_eq_none {l : Line} (h : l.wellFormed = false) : l.assemble = none := by
  simp [Line.assemble, h]

/-- A number taken at the operand's width after the range check is that very number. -/
theorem operand_in_range {n : Nat} (k : BitVec n → Instr) (x : Nat) :
    (if decide (x < 2 ^ n) then some (k (BitVec.ofNat n x)) else none) =
      if h : x < 2 ^ n then some (k (BitVec.ofNatLT x h)) else none := by
  by_cases h : x < 2 ^ n
  · simp [h, BitVec.ofNatLT_eq_ofNat]
  · simp [h]

end Sys2Proof

namespace Sys2Proof.Machine

/-! ### What every command answers (R76 to R78, R219, R220) -/

/-- A command word's response `r`, given between `s` and `t`: one legal response more, the pending events as they were, and a fault
recorded afterwards is the one `r` carries. -/
structure AnswersOnce (s t : State) (r : ResponseWord) : Prop where
  responses : t.responses = s.responses ++ [r]
  events : t.events = s.events
  legal : legalResponse r
  fault : ∀ c, t.fault = some c → r = faultResponse c

theorem answersOnce_faulted {s : State} {c : FaultCode} (h : s.fault = some c) :
    AnswersOnce s (s.answered (faultResponse c)) (faultResponse c) :=
  ⟨rfl, rfl, legalResponse_fault c, fun c' hc' => by rw [Option.some.inj (h.symm.trans hc')]⟩

theorem answersOnce_takeFault (s : State) (c : FaultCode) :
    AnswersOnce s ((s.setFault c).answered (faultResponse c)) (faultResponse c) :=
  ⟨rfl, rfl, legalResponse_fault c, fun c' hc' => by rw [Option.some.inj hc']⟩

theorem MayAnswer.ne_fault {i : Instr} {st : Status} (h : MayAnswer i st) : st ≠ .fault := by
  rintro rfl; exact h

theorem CompletesAs.answersOnce {i : Instr} {s t : State} {st : Status} {d : BitVec 1} {x : BitVec 10} (h : CompletesAs i s t st d x) :
    AnswersOnce s (t.answered (packResponse st d x)) (packResponse st d x) where
  responses := by rw [answered_responses, h.responses]
  events := h.events
  legal := legalResponse_pack st d x h.status.ne_fault
  fault := fun c hc => by cases h.fault.symm.trans hc

theorem exec_answersOnce (i : Instr) (s : State) : ∃ t r, exec i s = .next t ∧ AnswersOnce s t r := by
  obtain ⟨c, hf, hx⟩ | ⟨-, c, -, hx⟩ | ⟨-, -, u, st, d, x, hc⟩ := exec_cases i s
  · exact ⟨_, _, hx, answersOnce_faulted hf⟩
  · exact ⟨_, _, hx, answersOnce_takeFault s c⟩
  · exact ⟨_, _, hc.answer, hc.answersOnce⟩

theorem execIllegal_answersOnce (s : State) : ∃ t r, execIllegal s = .next t ∧ AnswersOnce s t r := by
  obtain ⟨c, hf, hx⟩ | ⟨-, hx⟩ := gate_cases s fun s => takeFault .illegalCommand s
  · exact ⟨_, _, hx, answersOnce_faulted hf⟩
  · exact ⟨_, _, hx, answersOnce_takeFault s .illegalCommand⟩

theorem issue_answersOnce (w : CommandWord) (s : State) : ∃ t r, issue w s = .next t ∧ AnswersOnce s t r := by
  unfold issue
  split
  · exact exec_answersOnce _ s
  · exact execIllegal_answersOnce s

theorem issue_of_illegal {w : CommandWord} {s : State} (hw : ∀ i, decode w ≠ .ok i) (hf : s.fault = none) :
    issue w s = .next ((s.setFault .illegalCommand).answered (faultResponse .illegalCommand)) := by
  unfold issue
  split
  · next i hi => exact absurd hi (hw i)
  · exact gate_of_none hf _

theorem faultResponse_illegalCommand : faultResponse .illegalCommand = 0xE001#16 := by decide

/-! ### The invariant of the responses (R77, R78, R219, R220) -/

/-- All a step that answers a next state can do: a command word's one response, or the reset event. -/
theorem step_cases {s t : State} (h : step s = .next t) :
    ∃ rest, (∃ r, AnswersOnce { s with events := rest } t r) ∨ t = hostReset { s with events := rest } := by
  simp only [step, takeEvent] at h
  split at h
  · cases h
  · next e rest _ =>
    cases e with
    | command w =>
      obtain ⟨u, r, hu, hr⟩ := issue_answersOnce w { s with events := rest }
      obtain rfl := next_injective (h.symm.trans hu)
      exact ⟨rest, .inl ⟨r, hr⟩⟩
    | reset => exact ⟨rest, .inr (next_injective h).symm⟩

theorem AnswersOnce.inv {s t : State} {r : ResponseWord} (h : AnswersOnce s t r) (hs : ∀ w ∈ s.responses, legalResponse w) : t.Inv := by
  constructor
  · intro w hw
    rw [h.responses, List.mem_append, List.mem_singleton] at hw
    obtain hw | rfl := hw
    · exact hs w hw
    · exact h.legal
  · intro c hc
    rw [h.responses, List.getLast?_concat, h.fault c hc]

/-! ### Statuses (R78) -/

theorem responseStatus_faultResponse (c : FaultCode) : responseStatus (faultResponse c) = 7#3 := responseStatus_pack ..

theorem responseData_faultResponse (c : FaultCode) : responseData (faultResponse c) = c.code := responseData_pack ..

/-- A completing command's status code is that of a status R78 allows it. -/
theorem MayAnswer.by_code {i : Instr} {st : Status} (h : MayAnswer i st) :
    (st.code = 1#3 → MayAnswer i .notFound) ∧ (st.code = 2#3 ∨ st.code = 3#3 ∨ st.code = 4#3 → ∃ w, i = .decValidate w) ∧
      st.code ≠ 5#3 ∧ st.code ≠ 6#3 ∧ st.code ≠ 7#3 := by
  cases st with
  | ok => simp [Status.code]
  | notFound => simpa [Status.code] using h
  | rdError | sync | rdErrorSync => simpa [Status.code, MayAnswer] using h
  | fault => exact h.elim

end Sys2Proof.Machine

/-! ### The statements -/

namespace Sys2Proof.Proofs

open Sys2Proof.Machine

/-- Settles O2. -/
theorem decodeOfEncodeIsTheCommand : Obligations.DecodeOfEncodeIsTheCommand := decode_encode

/-- Settles O24: after a command word the one new response is legal and carries the recorded fault; a reset records none. -/
theorem stepKeepsInvariant : Obligations.StepKeepsInvariant := by
  rintro s t ⟨hlegal, -⟩ h
  obtain ⟨rest, ⟨r, hr⟩ | rfl⟩ := step_cases h
  · exact hr.inv hlegal
  · exact ⟨hlegal, nofun⟩

/-- Settles O3. -/
theorem encodeOfDecodeIsTheWord : Obligations.EncodeOfDecodeIsTheWord := fun _ _ => encode_of_decode

/-- Settles O4: a word that decodes is an encoding, which selects its own row alone; a word that selects a row decodes. -/
theorem legalWordsAreTheCommands : Obligations.LegalWordsAreTheCommands := by
  refine ⟨decodes_iff_selects_one_row, illegal_iff_fields, fun w s hw hf => ?_, legalWord_count.trans card_instr⟩
  rw [issue_of_illegal hw hf, faultResponse_illegalCommand]; rfl

/-- Settles O5. -/
theorem linesAssembleExactlyInRange : Obligations.LinesAssembleExactlyInRange := by
  refine ⟨fun b => (decode_assemble _).trans (operand_in_range (n := 8) .encByte b),
    fun b => (decode_assemble _).trans (operand_in_range (n := 8) .rsUpdate b),
    fun i => (decode_assemble _).trans (operand_in_range (n := 5) .rsRead i),
    fun x => (decode_assemble _).trans (operand_in_range (n := 10) (.decSymbol false) x),
    fun x => (decode_assemble _).trans (operand_in_range (n := 10) (.decSymbol true) x),
    fun x => (decode_assemble _).trans (operand_in_range (n := 10) .decDisparityOf x),
    fun x => (decode_assemble _).trans (operand_in_range (n := 10) .decNextDisparity x),
    fun x => (decode_assemble _).trans (operand_in_range (n := 10) .decValidate x),
    fun d => decode_assemble _, fun d => decode_assemble _, rfl, rfl, rfl, rfl, fun b hb => ?_, fun x hx => ?_, fun i hi => ?_⟩
  · have hr : byteInRange b = false := decide_eq_false (Nat.not_lt.2 hb)
    exact ⟨assemble_eq_none hr, assemble_eq_none hr⟩
  · have hr : channelWordInRange x = false := decide_eq_false (Nat.not_lt.2 hx)
    exact ⟨assemble_eq_none hr, assemble_eq_none hr, assemble_eq_none hr, assemble_eq_none hr, assemble_eq_none hr⟩
  · exact assemble_eq_none (decide_eq_false (Nat.not_lt.2 hi))

/-- Settles O22: the step issues the word on the state with its event taken. -/
theorem everyCommandGivesOneResponse : Obligations.EveryCommandGivesOneResponse := by
  intro s w rest he
  obtain ⟨t, r, hx, hr⟩ := issue_answersOnce w { s with events := rest }
  exact ⟨t, r, by simpa only [step, takeEvent, he, handleEvent] using hx, hr.responses, hr.events⟩

/-- Settles O23: a command that ends with a fault recorded answers FAULT with its code, one that completes a status of its own. -/
theorem statusesByCommand : Obligations.StatusesByCommand := by
  intro i s t r h hr
  obtain ⟨u, r', hu, ha⟩ := exec_answersOnce i s
  obtain rfl := next_injective (h.symm.trans hu)
  obtain rfl : r = r' := by simpa using hr.symm.trans ha.responses
  obtain ⟨hf, -⟩ | ⟨-, -, u, st, d, x, hc, rfl⟩ := next_faults_or_completes h
  · obtain ⟨c, hc⟩ := Option.ne_none_iff_exists'.1 hf
    obtain rfl := ha.fault c hc
    simp [responseStatus_faultResponse, responseData_faultResponse, hc]
  · obtain rfl : r = packResponse st d x := by simpa [hc.responses] using hr.symm
    obtain ⟨h₁, h₂₃₄, h₅, h₆, h₇⟩ := hc.status.by_code
    simpa only [responseStatus_pack, answered_fault, hc.fault] using
      ⟨h₁, h₂₃₄, h₅, h₆, iff_of_false h₇ (fun hn => hn rfl), nofun⟩

/-- Settles O1: each word is the encoding of its command. -/
theorem specWordsDecodeToTheirCommands : Obligations.SpecWordsDecodeToTheirCommands :=
  ⟨decode_encode (.encByte 0x05), decode_encode .encEof, decode_encode (.encSetRd .pos), decode_encode (.encSetRd .neg),
    decode_encode .encGetRd, decode_encode (.decSymbol true 0x3FF), decode_encode (.decSymbol false 0x18A),
    decode_encode (.decDisparityOf 0x2AA), decode_encode (.decNextDisparity 0x275), decode_encode (.decValidate 0x305),
    decode_encode (.decSetRd .pos), decode_encode .decGetRd, decode_encode .rsReset, decode_encode (.rsUpdate 0x81),
    decode_encode (.rsRead 31)⟩

end Sys2Proof.Proofs
end

section
/-! SUPPORT. What each line encoder command answers (R101 to R104), and the decoder that follows the encoder symbol by symbol (R107): each
symbol's word is accepted with the encoder's disparity, so the two run in step. Then the statements of spec/40_line_encoder.md. -/

namespace Sys2Proof.Machine

/-! ### The response to a command that completes (R101 to R104, R136, R137) -/

section
variable {s : State} {r : Disparity} (hf : s.fault = none)
include hf

theorem exec_encByte (he : s.encRd = some r) (b : Byte) :
    exec (.encByte b) s = .next ((s.setEncRd (Rom.entryNext (Rom.SYM r b))).answered
      (packResponse .ok (Rom.entryNext (Rom.SYM r b)).bit (Rom.entryWord (Rom.SYM r b)))) := by
  simp [exec, execEncByte, gate_of_none hf, readEncRd, he]

theorem exec_encEof (he : s.encRd = some r) :
    exec .encEof s = .next ((s.setEncRd (flipRd r)).answered (packResponse .ok (flipRd r).bit (syncWordAt r))) := by
  simp [exec, execEncEof, gate_of_none hf, readEncRd, he]

theorem exec_encSetRd (d : Disparity) :
    exec (.encSetRd d) s = .next ((s.setEncRd d).answered (packResponse .ok d.bit 0#10)) := by
  simp [exec, execEncSetRd, gate_of_none hf]

theorem exec_encGetRd (he : s.encRd = some r) : exec .encGetRd s = .next (s.answered (packResponse .ok r.bit 0#10)) := by
  simp [exec, execEncGetRd, gate_of_none hf, readEncRd, he]

theorem exec_decSetRd (d : Disparity) :
    exec (.decSetRd d) s = .next ((s.setDecRd d).answered (packResponse .ok d.bit 0#10)) := by
  simp [exec, execDecSetRd, gate_of_none hf]

theorem exec_decGetRd (hd : s.decRd = some r) : exec .decGetRd s = .next (s.answered (packResponse .ok r.bit 0#10)) := by
  simp [exec, execDecGetRd, gate_of_none hf, readDecRd, hd]

end

/-! ### One symbol, encoded and validated (R101, R102, R135) -/

/-- The search of a row finds the byte whose word is searched, where no other byte of that row has the word. -/
theorem romFindRow_entryWord {T : Rom.SymbolTable} {r : Disparity} {b : Byte}
    (h : ∀ c, Rom.entryWord (T r c) = Rom.entryWord (T r b) → c = b) :
    romFindRow T r (Rom.entryWord (T r b)) = some (b, Rom.entryNext (T r b)) := by
  cases hx : romFindRow T r (Rom.entryWord (T r b)) with
  | none => exact absurd rfl ((romFindRow_eq_none_iff ..).1 hx b)
  | some x =>
    obtain ⟨hw, hn⟩ := romFindRow_sound hx
    obtain rfl := h x.1 hw
    rw [← hn]

/-- A data word of the decoder's row: OK, the byte, and the disparity its entry carries (R135). -/
theorem exec_decValidate_entryWord {u : State} {r : Disparity} (hf : u.fault = none) (hd : u.decRd = some r) (b : Byte) :
    exec (.decValidate (Rom.entryWord (Rom.SYM r b))) u = .next ((u.setDecRd (Rom.entryNext (Rom.SYM r b))).answered
      (packResponse .ok (Rom.entryNext (Rom.SYM r b)).bit (zext10 b))) := by
  have hit : romFindRow Rom.SYMBOL_TABLE r (Rom.entryWord (Rom.SYM r b)) = some (b, Rom.entryNext (Rom.SYM r b)) :=
    romFindRow_entryWord fun _ => entryWord_injective
  simp [exec, execDecValidate, gate_of_none hf, readDecRd, hd, hit]

/-- The encoder's response to a symbol at disparity `r`. -/
def symbolResponse (r : Disparity) (x : LineSymbol) : ResponseWord := packResponse .ok (symbolNext r x).bit (symbolWord r x)

@[simp] theorem responseStatus_symbolResponse (r : Disparity) (x : LineSymbol) : responseStatus (symbolResponse r x) = 0#3 :=
  responseStatus_pack ..

@[simp] theorem responseD_symbolResponse (r : Disparity) (x : LineSymbol) : responseD (symbolResponse r x) = (symbolNext r x).bit :=
  responseD_pack ..

@[simp] theorem responseData_symbolResponse (r : Disparity) (x : LineSymbol) : responseData (symbolResponse r x) = symbolWord r x :=
  responseData_pack ..

theorem exec_symbolCommand {s : State} {r : Disparity} (hf : s.fault = none) (he : s.encRd = some r) (x : LineSymbol) :
    exec (symbolCommand x) s = .next ((s.setEncRd (symbolNext r x)).answered (symbolResponse r x)) := by
  cases x with
  | some b => exact exec_encByte hf he b
  | none => exact exec_encEof hf he

/-- A decoder at the encoder's disparity accepts the word of a symbol and goes on to the disparity after it. -/
theorem exec_decValidate_symbolWord {u : State} {r : Disparity} (hf : u.fault = none) (hd : u.decRd = some r) (x : LineSymbol) :
    exec (.decValidate (symbolWord r x)) u =
      .next ((u.setDecRd (symbolNext r x)).answered (acceptance x (symbolResponse r x))) := by
  cases x with
  | some b => simpa [acceptance, symbolWord, symbolNext] using exec_decValidate_entryWord hf hd b
  | none => simpa [acceptance, symbolWord, symbolNext] using exec_decValidate_sync hf hd

/-! ### A stream of symbols (R107) -/

/-- The disparity after a stream that starts at `r`. -/
def streamNext (r : Disparity) (xs : List LineSymbol) : Disparity := xs.foldl symbolNext r

/-- The encoder's responses to a stream that starts at `r`, each symbol at the disparity the one before it left. -/
def streamResponses (r : Disparity) : List LineSymbol → List ResponseWord
  | [] => []
  | x :: xs => symbolResponse r x :: streamResponses (symbolNext r x) xs

theorem length_streamResponses (r : Disparity) (xs : List LineSymbol) : (streamResponses r xs).length = xs.length := by
  induction xs generalizing r with
  | nil => rfl
  | cons x xs ih => exact congrArg (· + 1) (ih (symbolNext r x))

theorem status_of_mem_streamResponses {r : Disparity} {xs : List LineSymbol} {e : ResponseWord} (h : e ∈ streamResponses r xs) :
    responseStatus e = 0#3 := by
  induction xs generalizing r with
  | nil => cases h
  | cons x xs ih =>
    obtain rfl | h := List.mem_cons.1 h
    · exact responseStatus_symbolResponse r x
    · exact ih h

theorem execAll_symbolCommands (xs : List LineSymbol) {s : State} {r : Disparity} (hf : s.fault = none) (he : s.encRd = some r) :
    execAll (xs.map symbolCommand) s =
      .next { s with encRd := some (streamNext r xs), responses := s.responses ++ streamResponses r xs } := by
  induction xs generalizing s r with
  | nil => simp [execAll, streamNext, streamResponses, ← he]
  | cons x xs ih =>
    have hrest := ih (s := (s.setEncRd (symbolNext r x)).answered (symbolResponse r x)) hf rfl
    rw [List.map_cons, execAll, exec_symbolCommand hf he, andThen_next, hrest]
    simp [State.setEncRd, State.answered, streamNext, streamResponses]

/-- The decoder starts each symbol at the disparity the encoder started it at, so it accepts every word of the stream. -/
theorem execAll_decValidate_stream (xs : List LineSymbol) {u : State} {r : Disparity} (hf : u.fault = none) (hd : u.decRd = some r) :
    execAll ((streamResponses r xs).map fun e => .decValidate (responseData e)) u =
      .next { u with
        decRd := some (streamNext r xs), responses := u.responses ++ List.zipWith acceptance xs (streamResponses r xs) } := by
  induction xs generalizing u r with
  | nil => simp [execAll, streamNext, streamResponses, ← hd]
  | cons x xs ih =>
    have hrest := ih (u := (u.setDecRd (symbolNext r x)).answered (acceptance x (symbolResponse r x))) hf rfl
    rw [streamResponses, List.map_cons, responseData_symbolResponse, execAll, exec_decValidate_symbolWord hf hd, andThen_next, hrest]
    simp [State.setDecRd, State.answered, streamNext]

end Sys2Proof.Machine

/-! ### The statements -/

namespace Sys2Proof.Proofs

open Sys2Proof.Machine

/-- Settles O38: the encoder's run and the decoder's over the encoder's words go through the same disparities. -/
theorem decoderAcceptsEveryEncodedStream : Obligations.DecoderAcceptsEveryEncodedStream := fun xs _ r hf he =>
  ⟨streamNext r xs, streamResponses r xs, execAll_symbolCommands xs hf he, length_streamResponses r xs,
    fun _ => status_of_mem_streamResponses, fun _ hf hd => execAll_decValidate_stream xs hf hd⟩

/-- Settles O26. -/
theorem encByteEncodesTheTableEntry : Obligations.EncByteEncodesTheTableEntry := fun _ _ b hf he => exec_encByte hf he b

/-- Settles O27: the response words of R106 are the two end-of-frame words with OK and the other disparity's bit. -/
theorem encEofTogglesTheDisparity : Obligations.EncEofTogglesTheDisparity := by
  have at_neg : symbolResponse .neg none = 0x04FA#16 := by decide
  have at_pos : symbolResponse .pos none = 0x0305#16 := by decide
  intro s hf
  exact ⟨fun he => at_neg ▸ exec_encEof hf he, fun he => at_pos ▸ exec_encEof hf he⟩

/-- Settles O28. -/
theorem setRdSetsOneDisparity : Obligations.SetRdSetsOneDisparity := fun _ d hf => ⟨exec_encSetRd hf d, exec_decSetRd hf d⟩

/-- Settles O29. -/
theorem getRdAnswersTheDisparity : Obligations.GetRdAnswersTheDisparity := fun _ _ hf => ⟨exec_encGetRd hf, exec_decGetRd hf⟩

end Sys2Proof.Proofs
end

section
/-! SUPPORT. What the symbol search answers (R130, R131) and what each line decoder command answers from it (R132 to R135), a lemma for
each outcome. Then the statements of spec/41_line_decoder.md. -/

namespace Sys2Proof.Machine

/-! ### The search of one row (R130) -/

/-- `allBytes` is in ascending order, so a search of it finds the least byte that passes. -/
theorem find?_allBytes_eq_some_iff (p : Byte → Bool) (b : Byte) :
    allBytes.find? p = some b ↔ p b = true ∧ ∀ c : Byte, c.toNat < b.toNat → p c = false := by
  have index_eq : ∀ i (h : i < allBytes.length), allBytes[i] = BitVec.ofNat 8 i := fun i h => by simp [allBytes]
  have length_eq : allBytes.length = 256 := by simp [allBytes]
  rw [List.find?_eq_some_iff_getElem]
  refine and_congr_right fun _ => ⟨?_, fun hbefore => ⟨b.toNat, length_eq ▸ b.isLt, by simp [index_eq], fun j hj => ?_⟩⟩
  · rintro ⟨i, hi, rfl, hbefore⟩ c hc
    have hci : c.toNat < i := by simpa [index_eq, Nat.mod_eq_of_lt (length_eq ▸ hi)] using hc
    simpa [index_eq] using hbefore c.toNat hci
  · have hj256 : j < 256 := hj.trans b.isLt
    simpa [index_eq] using hbefore (BitVec.ofNat 8 j) (by simpa [Nat.mod_eq_of_lt hj256] using hj)

theorem romFindRow_eq_some_iff (T : Rom.SymbolTable) (r : Disparity) (w : ChannelWord) (b : Byte) (n : Disparity) :
    romFindRow T r w = some (b, n) ↔
      Rom.entryWord (T r b) = w ∧ n = Rom.entryNext (T r b) ∧ ∀ c : Byte, c.toNat < b.toNat → Rom.entryWord (T r c) ≠ w := by
  simp only [romFindRow, Option.map_eq_some_iff, Prod.mk.injEq, find?_allBytes_eq_some_iff, beq_iff_eq, beq_eq_false_iff_ne]
  constructor
  · rintro ⟨_, ⟨hw, hbefore⟩, rfl, rfl⟩
    exact ⟨hw, rfl, hbefore⟩
  · rintro ⟨hw, rfl, hbefore⟩
    exact ⟨b, ⟨hw, hbefore⟩, rfl, rfl⟩

/-- In the block's ROM the search of a row finds the byte of each of its words. -/
theorem romFindRow_symbolRom (r : Disparity) (b : Byte) :
    romFindRow Rom.SYMBOL_TABLE r (Rom.entryWord (Rom.SYM r b)) = some (b, Rom.entryNext (Rom.SYM r b)) :=
  romFindRow_entryWord fun _ => entryWord_injective

/-! ### The search of both rows (R130, R131) -/

theorem romFind_of_neg {T : Rom.SymbolTable} {w : ChannelWord} {b : Byte} {n : Disparity} (h : romFindRow T .neg w = some (b, n)) :
    romFind T w = some (.neg, b, n) := by
  simp [romFind, h]

theorem romFind_eq_some_iff (T : Rom.SymbolTable) (w : ChannelWord) (r : Disparity) (b : Byte) (n : Disparity) :
    romFind T w = some (r, b, n) ↔
      (r = .neg ∧ romFindRow T .neg w = some (b, n)) ∨
        (r = .pos ∧ romFindRow T .neg w = none ∧ romFindRow T .pos w = some (b, n)) := by
  obtain ⟨c, m, hneg, h⟩ | ⟨hneg, c, m, hpos, h⟩ | ⟨hneg, hpos, h⟩ := romFind_cases T w
  · simp [h, hneg, eq_comm]
  · simp [h, hneg, hpos, eq_comm]
  · simp [h, hneg, hpos]

/-- The search for the word of an entry hits, and whatever entry it names has that word too. -/
theorem exists_romFind_entryWord (T : Rom.SymbolTable) (r : Disparity) (b : Byte) :
    ∃ q c, romFind T (Rom.entryWord (T r b)) = some (q, c, Rom.entryNext (T q c)) ∧ Rom.entryWord (T q c) = Rom.entryWord (T r b) := by
  cases h : romFind T (Rom.entryWord (T r b)) with
  | none => exact absurd rfl ((romFind_eq_none_iff ..).1 h r b)
  | some x =>
    obtain ⟨q, c, n⟩ := x
    obtain ⟨hw, rfl⟩ := romFind_sound h
    exact ⟨q, c, rfl, hw⟩

/-- A word that the rows do not share is the word of one entry only. -/
theorem eq_of_unshared_word {r q : Disparity} {b c : Byte} (hb : Rom.entryWord (Rom.SYM .neg b) ≠ Rom.entryWord (Rom.SYM .pos b))
    (h : Rom.entryWord (Rom.SYM q c) = Rom.entryWord (Rom.SYM r b)) : q = r ∧ c = b := by
  obtain rfl := entryWord_injective h
  cases q <;> cases r
  · exact ⟨rfl, rfl⟩
  · exact absurd h hb
  · exact absurd h.symm hb
  · exact ⟨rfl, rfl⟩

/-! ### Words in neither row (R140) -/

theorem romFind_eq_none_iff_inNeitherRow (w : ChannelWord) : romFind Rom.SYMBOL_TABLE w = none ↔ inNeitherRow w :=
  romFind_eq_none_iff ..

theorem inNeitherRow_syncWordAt (q : Disparity) : inNeitherRow (syncWordAt q) := fun r b => entryWord_ne_syncWordAt r q b

@[simp] theorem romFind_syncWordAt (q : Disparity) : romFind Rom.SYMBOL_TABLE (syncWordAt q) = none :=
  (romFind_eq_none_iff_inNeitherRow _).2 (inNeitherRow_syncWordAt q)

theorem syncWordAt_neg : syncWordAt .neg = 0x0FA#10 := rfl

theorem syncWordAt_pos : syncWordAt .pos = 0x305#10 := by decide

/-- A word is in neither row if the byte it would carry has it in neither. -/
theorem inNeitherRow_of_byteOfWord {w : ChannelWord} (h : ∀ r, Rom.entryWord (Rom.symPacked r (byteOfWord w)) ≠ w) :
    inNeitherRow w := by
  rintro r b rfl
  exact h r (by rw [byteOfWord_entryWord, Rom.SYM_eq_symPacked])

theorem countP_not_and {α : Type} {p q : α → Bool} (h : ∀ a, p a = true → q a = true) (l : List α) :
    l.countP (fun a => !p a && q a) = l.countP q - l.countP p := by
  have with_p : l.countP (fun a => q a && p a) = l.countP p := List.countP_congr fun a _ => by simpa using h a
  have parts := List.countP_eq_countP_filter_add l q p
  simp only [List.countP_filter, with_p] at parts
  rw [parts, Nat.add_sub_cancel_left]
  exact List.countP_congr fun a _ => by simp [and_comm]

theorem not_sync_of_romFind_isSome {w : ChannelWord} (h : (romFind Rom.SYMBOL_TABLE w).isSome = true) :
    (w != 0x0FA#10 && w != 0x305#10) = true := by
  have not_sync : ∀ q, w ≠ syncWordAt q := fun q hq => by simp [hq] at h
  simpa [← syncWordAt_neg, ← syncWordAt_pos] using ⟨not_sync .neg, not_sync .pos⟩

/-- Of the 1022 words that are no sync word, all but the 440 of the ROM are misses. -/
theorem miss_count : ((List.range 1024).countP fun w => (romFind Rom.SYMBOL_TABLE (BitVec.ofNat 10 w)).isNone &&
    BitVec.ofNat 10 w != 0x0FA#10 && BitVec.ofNat 10 w != 0x305#10) = 582 := by
  have not_sync : ((List.range 1024).countP fun w => BitVec.ofNat 10 w != 0x0FA#10 && BitVec.ofNat 10 w != 0x305#10) = 1022 := by
    decide +kernel
  simp only [← Option.not_isSome, Bool.and_assoc]
  rw [countP_not_and fun w : Nat => not_sync_of_romFind_isSome, symbolRom_word_count, not_sync]

/-! ### What each command answers (R132 to R135, R138) -/

section
variable {s : State} (hf : s.fault = none)
include hf

theorem exec_decSymbol_hit {c : Bool} {w : ChannelWord} {x : Disparity × Byte × Disparity}
    (h : romFind Rom.SYMBOL_TABLE (if c then ~~~w else w) = some x) :
    exec (.decSymbol c w) s = .next (s.answered (packResponse .ok 0#1 (zext10 x.2.1))) := by
  simp [exec, execDecSymbol, gate_of_none hf, comp10_eq_not, h]

theorem exec_decSymbol_miss {c : Bool} {w : ChannelWord} (h : romFind Rom.SYMBOL_TABLE (if c then ~~~w else w) = none) :
    exec (.decSymbol c w) s = .next (s.answered (packResponse .notFound 0#1 0#10)) := by
  simp [exec, execDecSymbol, gate_of_none hf, comp10_eq_not, h]

theorem exec_decDisparityOf_hit {w : ChannelWord} {x : Disparity × Byte × Disparity} (h : romFind Rom.SYMBOL_TABLE w = some x) :
    exec (.decDisparityOf w) s = .next (s.answered (packResponse .ok x.1.bit 0#10)) := by
  simp [exec, execDecDisparityOf, gate_of_none hf, h]

theorem exec_decDisparityOf_miss {w : ChannelWord} (h : romFind Rom.SYMBOL_TABLE w = none) :
    exec (.decDisparityOf w) s = .next (s.answered (packResponse .notFound 0#1 0#10)) := by
  simp [exec, execDecDisparityOf, gate_of_none hf, h]

theorem exec_decNextDisparity_hit {w : ChannelWord} {x : Disparity × Byte × Disparity} (h : romFind Rom.SYMBOL_TABLE w = some x) :
    exec (.decNextDisparity w) s = .next (s.answered (packResponse .ok x.2.2.bit 0#10)) := by
  simp [exec, execDecNextDisparity, gate_of_none hf, h]

theorem exec_decNextDisparity_miss {w : ChannelWord} (h : romFind Rom.SYMBOL_TABLE w = none) :
    exec (.decNextDisparity w) s = .next (s.answered (packResponse .notFound 0#1 0#10)) := by
  simp [exec, execDecNextDisparity, gate_of_none hf, h]

/-- A data word of the other row only: RD_ERROR, the byte, and the disparity its entry carries (R135). -/
theorem exec_decValidate_rdError {r : Disparity} (hd : s.decRd = some r) {b : Byte}
    (h : ∀ c, Rom.entryWord (Rom.SYM r c) ≠ Rom.entryWord (Rom.SYM (flipRd r) b)) :
    exec (.decValidate (Rom.entryWord (Rom.SYM (flipRd r) b))) s = .next ((s.setDecRd (Rom.entryNext (Rom.SYM (flipRd r) b))).answered
      (packResponse .rdError (Rom.entryNext (Rom.SYM (flipRd r) b)).bit (zext10 b))) := by
  have miss : romFindRow Rom.SYMBOL_TABLE r (Rom.entryWord (Rom.SYM (flipRd r) b)) = none := (romFindRow_eq_none_iff ..).2 h
  simp [exec, execDecValidate, gate_of_none hf, readDecRd, hd, miss, romFindRow_symbolRom]

/-- Any other word: NOT_FOUND, and the disparity stays (R135). -/
theorem exec_decValidate_notFound {r : Disparity} (hd : s.decRd = some r) {w : ChannelWord} (hw : inNeitherRow w)
    (hs : ∀ q, w ≠ syncWordAt q) : exec (.decValidate w) s = .next (s.answered (packResponse .notFound 0#1 0#10)) := by
  have miss : ∀ q, romFindRow Rom.SYMBOL_TABLE q w = none := fun q => (romFindRow_eq_none_iff ..).2 (hw q)
  simp [exec, execDecValidate, gate_of_none hf, readDecRd, hd, miss, hs]

end

end Sys2Proof.Machine

/-! ### The statements -/

namespace Sys2Proof.Proofs

open Sys2Proof.Machine

/-- Settles O30: the least byte of a row with the word, row NEG first. -/
theorem findReturnsTheFirstMatch : Obligations.FindReturnsTheFirstMatch := fun T w =>
  ⟨fun r b n => romFindRow_eq_some_iff T r w b n, fun r => romFindRow_eq_none_iff T r w, fun r b n => romFind_eq_some_iff T w r b n,
    romFind_eq_none_iff T w, syncWordAt_neg ▸ romFind_syncWordAt .neg, syncWordAt_pos ▸ romFind_syncWordAt .pos⟩

/-- Settles O31: row NEG is searched first, and a word of both rows keeps the disparity; a word of one row is one entry's, which the
search cannot but name. -/
theorem sharedWordsAreFoundInRowNeg : Obligations.SharedWordsAreFoundInRowNeg := by
  refine ⟨fun b hb => ?_, fun r b hb => ⟨?_, fun q c h => eq_of_unshared_word hb h⟩⟩
  · exact romFind_of_neg (by rw [romFindRow_symbolRom, shared_word_keeps_disparity hb])
  · obtain ⟨q, c, hfind, hw⟩ := exists_romFind_entryWord Rom.SYMBOL_TABLE r b
    obtain ⟨rfl, rfl⟩ := eq_of_unshared_word hb hw
    exact hfind

/-- Settles O32: both searches hit, and the entry they name is of the byte. -/
theorem anyUnambiguousTableRoundTrips : Obligations.AnyUnambiguousTableRoundTrips := by
  intro T hT r b
  obtain ⟨q, c, hfind, hw⟩ := exists_romFind_entryWord T r b
  obtain rfl := hT q r c b hw
  exact ⟨romFindRow_entryWord fun c => hT r r c _, q, _, hfind⟩

/-- Settles O35: each premise fixes the branch of DEC_VALIDATE; no row holds a sync word, so the five exclude each other. -/
theorem decValidateOutcomes : Obligations.DecValidateOutcomes := by
  intro s r w hf hd
  refine ⟨?_, ?_, ?_, ?_, fun hw hr hflip => exec_decValidate_notFound hf hd hw fun q => ?_⟩
  · rintro b rfl
    exact exec_decValidate_entryWord hf hd b
  · rintro b rfl hother
    exact exec_decValidate_rdError hf hd hother
  · rintro rfl
    exact exec_decValidate_sync hf hd
  · rintro rfl
    exact exec_decValidate_rdErrorSync hf hd
  · obtain rfl | rfl := eq_or_eq_flipRd r q
    · exact hr
    · exact hflip

/-- Settles O36: the entry that the search names has the word, so it is of the byte. -/
theorem roundTripOfEveryByte : Obligations.RoundTripOfEveryByte := by
  intro s r b hf
  obtain ⟨q, c, hfind, hw⟩ := exists_romFind_entryWord Rom.SYMBOL_TABLE r b
  obtain rfl : c = b := entryWord_injective hw
  have hit : romFind Rom.SYMBOL_TABLE (Rom.entryWord (Rom.SYM r c)) = some (q, c, Rom.entryNext (Rom.SYM q c)) := hfind
  exact ⟨exec_decSymbol_hit (c := false) hf hit, fun hd => exec_decValidate_entryWord hf hd c⟩

/-- Settles O37: a word in neither row misses both searches; that the four flips are such words is told by the byte each would carry. -/
theorem decodeMissIsReported : Obligations.DecodeMissIsReported := by
  have response : packResponse .notFound 0#1 0#10 = 0x2000#16 := by decide
  refine ⟨fun s w hf hw => ⟨?_, fun hd hneg hpos => ?_⟩, symbolRom_word_count, miss_count,
    syncWordAt_neg ▸ inNeitherRow_syncWordAt .neg, syncWordAt_pos ▸ inNeitherRow_syncWordAt .pos, fun k hk => inNeitherRow_of_byteOfWord fun r => ?_⟩
  · have miss := (romFind_eq_none_iff_inNeitherRow w).2 hw
    rintro i (rfl | rfl | rfl)
    · exact response ▸ exec_decSymbol_miss hf miss
    · exact response ▸ exec_decDisparityOf_miss hf miss
    · exact response ▸ exec_decNextDisparity_miss hf miss
  · obtain ⟨r, hr⟩ := Option.ne_none_iff_exists'.1 hd
    have not_sync : ∀ q, w ≠ syncWordAt q := by
      rintro (_ | _)
      · exact hneg
      · exact syncWordAt_pos ▸ hpos
    exact response ▸ exec_decValidate_notFound hf hr hw not_sync
  · revert k
    cases r <;> decide +kernel

/-- Settles O33, by whether the search hits. -/
theorem decSymbolAnswersTheByte : Obligations.DecSymbolAnswersTheByte := by
  intro s c w hf
  cases h : romFind Rom.SYMBOL_TABLE (if c then ~~~w else w) with
  | none => exact exec_decSymbol_miss hf h
  | some x => exact exec_decSymbol_hit hf h

/-- Settles O34, by whether the search hits. -/
theorem disparityQueriesAnswerTheFirstMatch : Obligations.DisparityQueriesAnswerTheFirstMatch := by
  intro s w hf
  cases h : romFind Rom.SYMBOL_TABLE w with
  | none => exact ⟨exec_decDisparityOf_miss hf h, exec_decNextDisparity_miss hf h⟩
  | some x => exact ⟨exec_decDisparityOf_hit hf h, exec_decNextDisparity_hit hf h⟩

end Sys2Proof.Proofs
end

section
/-! SUPPORT. GF(256) is a field (R170 to R173), one RS_UPDATE is a shift plus the feedback's multiple of the generator (R175), and the
register after a run is a function of the run's bytes, additive in them (R177 to R181). Then the statements of spec/42_reed_solomon.md. -/

namespace Sys2Proof.Machine

/-! ### The field (R170, R171) -/

theorem xor_xor_xor_comm (a b c d : Byte) : a ^^^ b ^^^ (c ^^^ d) = a ^^^ c ^^^ (b ^^^ d) := by ac_rfl

theorem gmul_comm (a b : Byte) : gmul a b = gmul b a := by
  simp only [gmul, or_comm, Nat.add_comm]

@[simp] theorem gmul_zero_left (a : Byte) : gmul 0#8 a = 0#8 := by simp [gmul]

@[simp] theorem gmul_zero_right (a : Byte) : gmul a 0#8 = 0#8 := by simp [gmul]

theorem gmul_xor_left (a b c : Byte) : gmul (a ^^^ b) c = gmul a c ^^^ gmul b c := by
  simp only [gmul_eq_polynomialProduct, polynomialProduct_xor_left]

theorem gmul_xor_right (a b c : Byte) : gmul a (b ^^^ c) = gmul a b ^^^ gmul a c := by
  simp only [gmul_comm a, gmul_xor_left]

theorem gmul_alphaPower (i j : Nat) : gmul (Rom.alphaPower i) (Rom.alphaPower j) = Rom.alphaPower (i + j) := by
  rw [gmul_eq_polynomialProduct, polynomialProduct_alphaPower_left, timesAlphaPower_alphaPower, Nat.add_comm]

theorem eq_zero_or_alphaPower (a : Byte) : a = 0#8 ∨ ∃ i, a = Rom.alphaPower i := by
  by_cases h : a = 0#8
  · exact .inl h
  · exact .inr ⟨_, (alphaPower_INDEX_OF h).symm⟩

/-- Products of powers of α add their exponents, and a product with 0 is 0. -/
theorem gmul_assoc (a b c : Byte) : gmul (gmul a b) c = gmul a (gmul b c) := by
  obtain rfl | ⟨i, rfl⟩ := eq_zero_or_alphaPower a
  · simp
  obtain rfl | ⟨j, rfl⟩ := eq_zero_or_alphaPower b
  · simp
  obtain rfl | ⟨k, rfl⟩ := eq_zero_or_alphaPower c
  · simp
  simp only [gmul_alphaPower, Nat.add_assoc]

/-- The inverse of `α^i` is `α^(254·i)`, since `α^255` is 1. -/
theorem exists_gmul_eq_one {a : Byte} (h : a ≠ 0#8) : ∃ b, gmul a b = 1#8 := by
  obtain ⟨i, rfl⟩ := (eq_zero_or_alphaPower a).resolve_left h
  have hexp : mod255 (i + 254 * i) = 0 := by unfold mod255; omega
  exact ⟨Rom.alphaPower (254 * i), by rw [gmul_alphaPower, ← alphaPower_mod255, hexp]; rfl⟩

/-- One turn of R172's fold keeps the value modulo 255, since 256 is 1 modulo 255, and makes it smaller. -/
theorem mod255Fold_eq_mod {fuel x : Nat} (h : x ≤ fuel) : mod255Fold fuel x = x % 255 := by
  induction fuel generalizing x with
  | zero => obtain rfl := Nat.le_zero.1 h; rfl
  | succ fuel ih =>
    unfold mod255Fold
    split
    · have hand : (x - 255) &&& 255 = (x - 255) % 256 := Nat.and_two_pow_sub_one_eq_mod (x - 255) 8
      rw [Nat.shiftRight_eq_div_pow, hand, ih (by omega)]
      omega
    · exact (Nat.mod_eq_of_lt (by omega)).symm

/-! ### One register step (R175) -/

theorem fullGenerator_ne_A0 {k : Nat} (h : k ≤ 32) : Rom.fullGenerator k ≠ Rom.A0 := by
  obtain ⟨-, -, -, -, -, half⟩ := Proofs.generatorIsTheProductOfItsRoots
  exact GENPOLY_termIndex k h ▸ (half (termIndex k)).1

theorem fullGenerator_leading : Rom.ALPHA_TO (Rom.fullGenerator 32) = 1#8 := by
  rw [← GENPOLY_termIndex 32 le_rfl, Rom.GENPOLY_eq_image, Rom.ALPHA_TO_eq_alphaPacked]
  decide

/-- A product with a coefficient in log form adds the logs (R171): the sentinel is no log. -/
theorem gmul_ALPHA_TO {a g : Byte} (ha : a ≠ 0#8) (hg : g ≠ Rom.A0) :
    gmul a (Rom.ALPHA_TO g) = antilog ((Rom.INDEX_OF a).toNat + g.toNat) := by
  have hne : Rom.ALPHA_TO g ≠ 0#8 := fun h => hg ((INDEX_OF_ALPHA_TO hg).symm.trans (congrArg Rom.INDEX_OF h))
  rw [gmul, if_neg (by simp [ha, hne]), INDEX_OF_ALPHA_TO hg]

/-- RS_UPDATE on the register: the plain shift, plus the feedback times the generator (R175, R50). -/
theorem rsStep_getElem (p : Parity) (b : Byte) (k : Nat) (hk : k < Config.parityBytes) :
    (rsStep p b)[k] = (shiftIn p 0#8)[k] ^^^ gmul (b ^^^ p[0]) (Rom.ALPHA_TO (Rom.fullGenerator (k + 1))) := by
  have hk32 : k < 32 := hk
  by_cases hfb : b ^^^ p[0] = 0#8
  · have hstep : rsStep p b = shiftIn p 0#8 := by rw [rsStep, hfb]; exact if_neg (not_not_intro rfl)
    rw [hstep, hfb, gmul_zero_left, BitVec.xor_zero]
  · have hterm := gmul_ALPHA_TO hfb (fullGenerator_ne_A0 (k := k + 1) hk32)
    rw [rsStep, if_pos (INDEX_OF_ne_A0 hfb), ALPHA_TO_INDEX_OF hfb, shiftIn_getElem, shiftIn_getElem]
    by_cases hlast : k + 1 < Config.parityBytes
    · rw [dif_pos hlast, dif_pos hlast, xorFeedback_getElem, if_neg (Nat.succ_ne_zero k), hterm, feedbackTerm,
        GENPOLY_termIndex (k + 1) hk32]
    · obtain rfl : k = 31 := by have : ¬ k + 1 < 32 := hlast; omega
      rw [dif_neg hlast, dif_neg hlast, fullGenerator_leading, gmul_comm, gmul_one_left, BitVec.zero_xor]

/-- The step of the zero register on 0x00 has feedback 0 and shifts zeros. -/
theorem rsStep_zeroParity : rsStep zeroParity 0#8 = zeroParity := by
  ext1 k hk
  simp [rsStep_getElem]

/-- The bytewise exclusive or of two registers. -/
def xorParity (p q : Parity) : Parity := Vector.zipWith (· ^^^ ·) p q

@[simp] theorem xorParity_getElem (p q : Parity) (k : Nat) (hk : k < Config.parityBytes) : (xorParity p q)[k] = p[k] ^^^ q[k] :=
  Vector.getElem_zipWith ..

/-- The step is additive in register and byte together, since feedback, shift and product are. -/
theorem rsStep_xorParity (p q : Parity) (a b : Byte) : rsStep (xorParity p q) (a ^^^ b) = xorParity (rsStep p a) (rsStep q b) := by
  ext1 k hk
  have hshift : (shiftIn (xorParity p q) 0#8)[k] = (shiftIn p 0#8)[k] ^^^ (shiftIn q 0#8)[k] := by
    by_cases h : k + 1 < Config.parityBytes <;> simp [h]
  have hfb : a ^^^ b ^^^ (xorParity p q)[0] = (a ^^^ p[0]) ^^^ (b ^^^ q[0]) := by
    rw [xorParity_getElem, xor_xor_xor_comm]
  rw [xorParity_getElem, rsStep_getElem, rsStep_getElem, rsStep_getElem, hshift, hfb, gmul_xor_left, xor_xor_xor_comm]

/-! ### The register after a byte sequence (R178, R179, R181) -/

theorem parityAfter_append (p : Parity) (a b : List Byte) : parityAfter p (a ++ b) = parityAfter (parityAfter p a) b :=
  List.foldl_append

theorem parityAfter_replicate_zero (n : Nat) : parityAfter zeroParity (List.replicate n 0#8) = zeroParity := by
  induction n with
  | zero => rfl
  | succ n ih => rw [List.replicate_succ, parityAfter, List.foldl_cons, rsStep_zeroParity]; exact ih

theorem parityAfter_xor (p q : Parity) {a b : List Byte} (h : a.length = b.length) :
    parityAfter (xorParity p q) (List.zipWith (· ^^^ ·) a b) = xorParity (parityAfter p a) (parityAfter q b) := by
  induction a generalizing b p q with
  | nil => obtain rfl := List.length_eq_zero_iff.1 h.symm; rfl
  | cons x a ih =>
    cases b with
    | nil => cases h
    | cons y b =>
      simp only [parityAfter, List.zipWith_cons_cons, List.foldl_cons, rsStep_xorParity]
      exact ih _ _ (Nat.succ.inj h)

theorem xorParity_zeroParity : xorParity zeroParity zeroParity = zeroParity := by
  ext1 k hk
  simp

/-! ### Polynomials over the field (R177) -/

/-- The coefficients of the longer polynomial above the shorter one's length stay. -/
theorem polyAdd_append {p q : Poly} (r : Poly) (h : p.length = q.length) : polyAdd p (q ++ r) = List.zipWith gadd p q ++ r := by
  induction p generalizing q with
  | nil => obtain rfl := List.length_eq_zero_iff.1 h.symm; rfl
  | cons a p ih =>
    cases q with
    | nil => cases h
    | cons b q => exact congrArg (gadd a b :: ·) (ih (Nat.succ.inj h))

theorem polyAdd_zeros {p : Poly} {n : Nat} (h : n ≤ p.length) : polyAdd p (List.replicate n 0#8) = p := by
  induction p generalizing n with
  | nil => obtain rfl := Nat.le_zero.1 h; rfl
  | cons a p ih =>
    cases n with
    | zero => rfl
    | succ n => rw [List.replicate_succ, polyAdd, ih (Nat.le_of_succ_le_succ h), gadd, BitVec.xor_zero]

theorem polyEval_polyAdd (p q : Poly) (x : Byte) : polyEval (polyAdd p q) x = polyEval p x ^^^ polyEval q x := by
  induction p generalizing q with
  | nil => exact (BitVec.zero_xor ..).symm
  | cons a p ih =>
    cases q with
    | nil => exact (BitVec.xor_zero ..).symm
    | cons b q =>
      simp only [polyAdd, polyEval, gadd, ih, gmul_xor_right, xor_xor_xor_comm]

theorem polyEval_map_gmul (c : Byte) (p : Poly) (x : Byte) : polyEval (p.map (gmul c)) x = gmul c (polyEval p x) := by
  induction p with
  | nil => exact (gmul_zero_right c).symm
  | cons a p ih =>
    have hswap : gmul x (gmul c (polyEval p x)) = gmul c (gmul x (polyEval p x)) := by
      rw [← gmul_assoc, gmul_comm x c, gmul_assoc]
    rw [List.map_cons, polyEval, polyEval, gadd, gadd, ih, hswap, gmul_xor_right]

theorem polyEval_zero_cons (p : Poly) (x : Byte) : polyEval (0#8 :: p) x = gmul x (polyEval p x) := BitVec.zero_xor

theorem polyEval_polyMul (p q : Poly) (x : Byte) : polyEval (polyMul p q) x = gmul (polyEval p x) (polyEval q x) := by
  induction p with
  | nil => exact (gmul_zero_left _).symm
  | cons a p ih => rw [polyMul, polyEval_polyAdd, polyEval_map_gmul, polyEval_zero_cons, ih, polyEval, gadd, gmul_xor_left, gmul_assoc]

theorem polyEval_zeros (n : Nat) (x : Byte) : polyEval (List.replicate n 0#8) x = 0#8 := by
  induction n with
  | zero => rfl
  | succ n ih => rw [List.replicate_succ, polyEval_zero_cons, ih, gmul_zero_right]

/-! ### The codeword (R177) -/

/-- A product of root factors vanishes at each of the roots. -/
theorem polyEval_generatorOfRoots {i : Nat} (hi : i < 32) : polyEval generatorOfRoots (codeRoot i) = 0#8 := by
  have factor_vanishes : polyEval [codeRoot i, 1#8] (codeRoot i) = 0#8 := by
    simp [polyEval, gadd, gmul_comm _ 1#8, gmul_one_left]
  have keeps_zero (js : List Nat) (g : Poly) (hg : polyEval g (codeRoot i) = 0#8 ∨ i ∈ js) :
      polyEval (js.foldl (fun g j => polyMul [codeRoot j, 1#8] g) g) (codeRoot i) = 0#8 := by
    induction js generalizing g with
    | nil => exact hg.resolve_right List.not_mem_nil
    | cons j js ih =>
      refine ih _ ?_
      rw [polyEval_polyMul]
      obtain hg | hg := hg
      · exact .inl (by rw [hg, gmul_zero_right])
      · obtain rfl | hg := List.mem_cons.1 hg
        · exact .inl (by rw [factor_vanishes, gmul_zero_left])
        · exact .inr hg
  exact keeps_zero (List.range 32) [1#8] (.inr (List.mem_range.2 hi))

theorem generatorOfRoots_eq_generator : generatorOfRoots = generator := by
  obtain ⟨-, h, -⟩ := Proofs.generatorIsTheProductOfItsRoots
  exact h.symm

/-- The data bytes followed by the parity they leave, lowest coefficient first. -/
def codeword (data : List Byte) : Poly := (data ++ (parityAfter zeroParity data).toList).reverse

/-- Read from its last byte, the register times `x` is the plain shift, with `p[0]` above it. -/
theorem zero_cons_reverse_getElem (p : Parity) {j : Nat} (hj : j < Config.parityBytes) :
    (0#8 :: p.toList.reverse)[j]'(by simpa using Nat.lt_succ_of_lt hj) =
      (shiftIn p 0#8)[31 - j]'(Nat.lt_succ_of_le (Nat.sub_le 31 j)) := by
  cases j with
  | zero => simp
  | succ j =>
    have hk : 30 - j + 1 = 31 - j := by have : j + 1 < 32 := hj; omega
    have hin : 31 - j < Config.parityBytes := Nat.lt_succ_of_le (Nat.sub_le 31 j)
    simp [hk, hin]

/-- The register step as polynomials, lowest coefficient first: the new register and the byte are `x` times the old register plus the
feedback times the generator, whose palindrome lets the register be read from either end. -/
theorem reverse_rsStep (p : Parity) (b : Byte) :
    (rsStep p b).toList.reverse ++ [b] = List.zipWith gadd (generator.map (gmul (b ^^^ p[0]))) (0#8 :: p.toList.reverse) := by
  refine List.ext_getElem (by simp [generator]) fun j hj _ => ?_
  have hj32 : j ≤ 32 := by simpa using hj
  obtain rfl | hlt := Nat.eq_or_lt_of_le hj32
  · simp [generator, gadd, fullGenerator_leading, gmul_comm _ 1#8, gmul_one_left]
  · have hcoeff : Rom.fullGenerator (31 - j + 1) = Rom.fullGenerator j := by
      rw [fullGenerator_palindrome hj32, show 32 - j = 31 - j + 1 by omega]
    have hstep := rsStep_getElem p b (31 - j) (show 31 - j < 32 by omega)
    rw [hcoeff, BitVec.xor_comm] at hstep
    simpa [generator, gadd, hlt, zero_cons_reverse_getElem p hlt] using hstep

theorem codeword_concat (data : List Byte) (b : Byte) :
    codeword (data ++ [b]) =
      polyAdd (generatorOfRoots.map (gmul (b ^^^ (parityAfter zeroParity data)[0]))) (0#8 :: codeword data) := by
  set p := parityAfter zeroParity data with hp
  have hword : codeword (data ++ [b]) = ((rsStep p b).toList.reverse ++ [b]) ++ data.reverse := by
    simp [codeword, parityAfter, p]
  have hprev : 0#8 :: codeword data = (0#8 :: p.toList.reverse) ++ data.reverse := by
    simp [codeword, p]
  rw [hword, hprev, reverse_rsStep, generatorOfRoots_eq_generator, polyAdd_append _ (by simp [generator])]

theorem polyEval_codeword (data : List Byte) {i : Nat} (hi : i < 32) : polyEval (codeword data) (codeRoot i) = 0#8 := by
  induction data using List.reverseRecOn with
  | nil => exact polyEval_zeros 32 _
  | append_singleton data b ih =>
    rw [codeword_concat, polyEval_polyAdd, polyEval_map_gmul, polyEval_generatorOfRoots hi, polyEval_zero_cons, ih, gmul_zero_right,
      gmul_zero_right, BitVec.xor_zero]

theorem exists_polyMul_eq_codeword {data : List Byte} (h : data ≠ []) :
    ∃ m : Poly, m.length = data.length ∧ polyMul m generatorOfRoots = codeword data := by
  induction data using List.reverseRecOn with
  | nil => exact absurd rfl h
  | append_singleton data b ih =>
    rw [codeword_concat]
    cases data with
    | nil =>
      refine ⟨[b ^^^ (parityAfter zeroParity [])[0]], rfl, ?_⟩
      have hlen : generatorOfRoots.length = 33 := by simp [generatorOfRoots_eq_generator, generator]
      exact (polyAdd_zeros (n := 1) (by simp [hlen])).trans (polyAdd_zeros (n := 33) (by simp [hlen])).symm
    | cons a data =>
      obtain ⟨m, hlen, hm⟩ := ih (List.cons_ne_nil a data)
      exact ⟨_ :: m, by simp [hlen], by rw [polyMul, hm]⟩

/-! ### The commands (R174 to R176) and runs of them -/

section
variable {s : State} (hf : s.fault = none)
include hf

theorem exec_rsReset : exec .rsReset s = .next ((s.setParity zeroParity).answered (packResponse .ok 0#1 0#10)) := by
  simp [exec, execRsReset, gate_of_none hf]

theorem exec_rsUpdate {p : Parity} (hp : s.parity = some p) (b : Byte) :
    exec (.rsUpdate b) s = .next ((s.setParity (rsStep p b)).answered (packResponse .ok 0#1 0#10)) := by
  simp [exec, execRsUpdate, gate_of_none hf, readParity, hp]

theorem exec_rsRead {p : Parity} (hp : s.parity = some p) (k : BitVec 5) :
    exec (.rsRead k) s = .next (s.answered (packResponse .ok 0#1 (zext10 (p[k.toNat]'k.isLt)))) := by
  simp [exec, execRsRead, gate_of_none hf, readParity, hp]

end

theorem packResponse_ok_zero : packResponse .ok 0#1 0#10 = 0x0000#16 := by decide

theorem execAll_rsUpdates (data : List Byte) {s : State} {p : Parity} (hf : s.fault = none) (hp : s.parity = some p) :
    execAll (data.map Instr.rsUpdate) s =
      .next { s with parity := some (parityAfter p data), responses := s.responses ++ List.replicate data.length 0x0000#16 } := by
  induction data generalizing s p with
  | nil => simp [execAll, parityAfter, ← hp]
  | cons b data ih =>
    have hrest := ih (s := (s.setParity (rsStep p b)).answered (packResponse .ok 0#1 0#10)) hf rfl
    rw [List.map_cons, execAll, exec_rsUpdate hf hp, andThen_next, hrest]
    simp [State.setParity, State.answered, parityAfter, packResponse_ok_zero, List.replicate_succ]

/-- RS_RESET and the RS_UPDATE of data bytes, from any block without a fault. -/
theorem exists_execAll_rsReset_rsUpdates (data : List Byte) {s : State} (hf : s.fault = none) :
    ∃ t, execAll (.rsReset :: data.map Instr.rsUpdate) s = .next t ∧ t.parity = some (parityAfter zeroParity data) := by
  rw [execAll, exec_rsReset hf, andThen_next]
  exact ⟨_, execAll_rsUpdates data hf rfl, rfl⟩

/-- No command takes a recorded fault back, so a run that ends without one began without one. -/
theorem fault_none_before_execAll {cs : List Instr} {s t : State} (h : execAll cs s = .next t) (ht : t.fault = none) :
    s.fault = none := by
  induction cs generalizing s with
  | nil => rwa [next_injective h]
  | cons i cs ih =>
    obtain ⟨u, hu, hrest⟩ := andThen_eq_next h
    obtain ⟨hne, -⟩ | ⟨hf, -⟩ := next_faults_or_completes hu
    · exact absurd (ih hrest) hne
    · exact hf

/-- Of all commands but RS_RESET only RS_UPDATE moves the register, by its byte (R33, R175). -/
theorem parity_after_exec {i : Instr} {s t : State} {p : Parity} (h : exec i s = .next t) (hf : s.fault = none) (hp : s.parity = some p)
    (hi : i ≠ .rsReset) : t.parity = some (parityAfter p (updateByte i).toList) := by
  obtain ⟨-, -, hframe, -⟩ := Proofs.commandsWriteOnlyTheirFields i s t h
  cases i with
  | rsReset => exact absurd rfl hi
  | rsUpdate b => rw [← next_injective ((exec_rsUpdate hf hp b).symm.trans h)]; rfl
  | _ => exact (hframe rfl).trans hp

/-- Without a further RS_RESET the register after a run is the one its RS_UPDATE bytes leave (R180). -/
theorem parity_after_execAll {cs : List Instr} {s t : State} {p : Parity} (h : execAll cs s = .next t) (ht : t.fault = none)
    (hp : s.parity = some p) (hcs : .rsReset ∉ cs) : t.parity = some (parityAfter p (cs.filterMap updateByte)) := by
  induction cs generalizing s p with
  | nil => rw [← next_injective h]; exact hp
  | cons i cs ih =>
    have hf := fault_none_before_execAll h ht
    obtain ⟨hi, hcs⟩ := not_or.1 (mt List.mem_cons.2 hcs)
    obtain ⟨u, hu, hrest⟩ := andThen_eq_next h
    rw [ih hrest (parity_after_exec hu hf hp (Ne.symm hi)) hcs, ← parityAfter_append]
    cases hb : updateByte i <;> simp [hb]

theorem parity_after_rsReset {cs : List Instr} {s t : State} (h : execAll (.rsReset :: cs) s = .next t) (ht : t.fault = none)
    (hcs : .rsReset ∉ cs) : t.parity = some (parityAfter zeroParity (cs.filterMap updateByte)) := by
  have hf := fault_none_before_execAll h ht
  rw [execAll, exec_rsReset hf, andThen_next] at h
  exact parity_after_execAll h ht rfl hcs

end Sys2Proof.Machine

/-! ### The statements -/

namespace Sys2Proof.Proofs

open Sys2Proof.Machine

/-- Settles O42: each byte prolongs the codeword by a multiple of the generator, so it stays one. -/
theorem parityCompletesACodeword : Obligations.ParityCompletesACodeword := by
  intro s data hf
  obtain ⟨t, ht, hp⟩ := exists_execAll_rsReset_rsUpdates data hf
  exact ⟨t, _, ht, hp, fun _ hi => polyEval_codeword data hi, exists_polyMul_eq_codeword⟩

/-- Settles O45: both registers are the one that the byte sequence leaves. -/
theorem parityDependsOnItsBytesAlone : Obligations.ParityDependsOnItsBytesAlone := by
  intro s₁ s₂ t₁ t₂ c₁ c₂ h₁ h₂ hf₁ hf₂ hc₁ hc₂ hbytes
  rw [parity_after_rsReset h₁ hf₁ hc₁, parity_after_rsReset h₂ hf₂ hc₂, hbytes]

/-- Settles O46: the register step is additive. -/
theorem parityIsLinear : Obligations.ParityIsLinear := by
  intro s a b hf hlen
  obtain ⟨t, ht, hp⟩ := exists_execAll_rsReset_rsUpdates a hf
  obtain ⟨u, hu, hq⟩ := exists_execAll_rsReset_rsUpdates b hf
  obtain ⟨v, hv, hm⟩ := exists_execAll_rsReset_rsUpdates (List.zipWith (· ^^^ ·) a b) hf
  refine ⟨t, u, v, _, _, _, ht, hp, hu, hq, hv, hm, fun k hk => ?_⟩
  have hsum := parityAfter_xor zeroParity zeroParity hlen
  rw [xorParity_zeroParity] at hsum
  rw [hsum, xorParity_getElem]

/-- Settles O13: each nonzero byte is a power of α. -/
theorem fieldLaws : Obligations.FieldLaws :=
  ⟨fun _ _ => rfl, BitVec.xor_assoc, BitVec.xor_comm, fun _ => ⟨BitVec.xor_zero, BitVec.xor_self⟩, by decide, gmul_xor_right,
    gmul_assoc, gmul_comm, fun a => ⟨gmul_one_left a, gmul_zero_left a⟩, fun _ => exists_gmul_eq_one⟩

/-- Settles O14, by induction on the fuel. -/
theorem foldIsReductionModulo255 : Obligations.FoldIsReductionModulo255 := fun _ _ => mod255Fold_eq_mod

/-- Settles O40: the feedback is 0 exactly where the byte equals `p[0]`. -/
theorem rsUpdateIsOneRegisterStep : Obligations.RsUpdateIsOneRegisterStep := by
  intro s p b hf hp
  refine ⟨rsStep p b, packResponse_ok_zero ▸ exec_rsUpdate hf hp b, fun k hk => ?_, ?_⟩
  · have hk32 : k + 1 ≤ 32 := Nat.le_of_lt hk
    rw [rsStep_getElem, shiftIn_getElem, dif_pos hk]
    split
    · next hb => rw [hb, BitVec.xor_self, gmul_zero_left, BitVec.xor_zero]
    · next hb => rw [gmul_ALPHA_TO (mt BitVec.xor_eq_zero_iff.1 hb) (fullGenerator_ne_A0 hk32)]; rfl
  · have hshift : (shiftIn p 0#8)[31] = 0#8 := by simp
    rw [rsStep_getElem, hshift, fullGenerator_leading, gmul_comm, gmul_one_left, BitVec.zero_xor]

/-- Settles O43: leading zeros leave the zero register of RS_RESET as it is. -/
theorem leadingZerosChangeNoParity : Obligations.LeadingZerosChangeNoParity := by
  intro s n data hf
  obtain ⟨t, ht, hp⟩ := exists_execAll_rsReset_rsUpdates data hf
  obtain ⟨u, hu, hq⟩ := exists_execAll_rsReset_rsUpdates (List.replicate n 0#8 ++ data) hf
  rw [parityAfter_append, parityAfter_replicate_zero] at hq
  exact ⟨t, u, ht, hu, hp.trans hq.symm, by simp [hp]⟩

/-- Settles O44. -/
theorem zeroInputGivesZeroParity : Obligations.ZeroInputGivesZeroParity := by
  intro s n hf
  obtain ⟨t, ht, hp⟩ := exists_execAll_rsReset_rsUpdates (List.replicate n 0#8) hf
  rw [List.map_replicate] at ht
  exact ⟨t, ht, hp.trans (congrArg some (parityAfter_replicate_zero n))⟩

/-- Settles O39. -/
theorem rsResetZeroesTheRegister : Obligations.RsResetZeroesTheRegister := fun _ hf =>
  packResponse_ok_zero ▸ exec_rsReset hf

/-- Settles O41. -/
theorem rsReadAnswersTheByte : Obligations.RsReadAnswersTheByte := fun _ _ k hf hp => exec_rsRead hf hp k

end Sys2Proof.Proofs
end

section
/-! SUPPORT. A command word by the checks of R218, in their order: the fault gate, legality, the unset field, completion; and runs of host
events (R250) in a faulted block (R220). Then the statements of spec/60_exceptions.md. -/

namespace Sys2Proof.Machine

/-! ### What a command word does, check by check (R218) -/

section
variable {w : CommandWord} {i : Instr} {s : State}

theorem issue_of_decode (h : decode w = .ok i) : issue w s = exec i s := by
  simp only [issue, h]

theorem issue_of_fault {c : FaultCode} (hf : s.fault = some c) : issue w s = .next (s.answered (faultResponse c)) := by
  unfold issue
  split
  · exact exec_of_fault hf _
  · exact gate_of_some hf _

theorem decode_ne_ok_of_illegal (h : legalWord w = false) (i : Instr) : decode w ≠ .ok i := fun hi =>
  Bool.false_ne_true (h.symm.trans ((legalWord_iff w).2 ⟨i, encode_of_decode hi⟩))

theorem exists_exec_fault_free (hf : s.fault = none) (hu : unsetFault i s = none) : ∃ t, exec i s = .next t ∧ t.fault = none := by
  obtain ⟨t, st, d, x, hc⟩ := exec_completes hf hu
  exact ⟨_, hc.answer, hc.fault⟩

/-- On a block without a fault a word takes one fault, and nothing else, or leaves none. -/
theorem issue_faults_or_completes (hf : s.fault = none) :
    (∃ c, issue w s = .next ((s.setFault c).answered (faultResponse c))) ∨ ∃ t, issue w s = .next t ∧ t.fault = none := by
  by_cases hw : ∃ i, decode w = .ok i
  · obtain ⟨i, hi⟩ := hw
    rw [issue_of_decode hi]
    cases hu : unsetFault i s with
    | some c => exact .inl ⟨c, exec_of_unset hf hu⟩
    | none => exact .inr (exists_exec_fault_free hf hu)
  · exact .inl ⟨.illegalCommand, issue_of_illegal (not_exists.1 hw) hf⟩

end

/-! ### Runs of host events (R250) -/

section
variable {s : State}

theorem runEvents_of_no_event (he : s.events = []) : runEvents s = .next s := by
  rw [runEvents, he]; rfl

/-- A run takes its first event in one step, and goes on from what that leaves. -/
theorem runEvents_of_event {t : State} {e : HostEvent} {rest : List HostEvent} (he : s.events = e :: rest)
    (h : handleEvent e { s with events := rest } = .next t) (ht : t.events = rest) : runEvents s = runEvents t := by
  have hstep : step s = .next t := by simpa only [step, takeEvent, he] using h
  simp only [runEvents, he, ht, List.length_cons, Host.Core.run, hstep]

/-- Command words in a faulted block, whatever the host has pending after them. -/
theorem runEvents_commands_of_fault {c : FaultCode} (hf : s.fault = some c) (ws : List CommandWord) (rest : List HostEvent) :
    runEvents { s with events := ws.map HostEvent.command ++ rest } =
      runEvents { s with events := rest, responses := s.responses ++ List.replicate ws.length (faultResponse c) } := by
  induction ws generalizing s with
  | nil => simp
  | cons w ws ih =>
    have first := runEvents_of_event (s := { s with events := .command w :: (ws.map HostEvent.command ++ rest) }) rfl
      (issue_of_fault hf) rfl
    have others := ih (s := s.answered (faultResponse c)) hf
    rw [answered_responses, List.append_assoc] at others
    exact first.trans others

end

end Sys2Proof.Machine

/-! ### The statements -/

namespace Sys2Proof.Proofs

open Sys2Proof.Machine

/-- Settles O20: by induction over the words the block stays as it was; the reset event then clears it. -/
theorem faultedBlockAnswersFirstCodeUntilReset : Obligations.FaultedBlockAnswersFirstCodeUntilReset := by
  intro s c ws hf
  constructor
  · have words := runEvents_commands_of_fault hf ws []
    rw [List.append_nil] at words
    exact words.trans (runEvents_of_no_event rfl)
  · have reset := runEvents_of_event (e := .reset) (rest := [])
      (s := { s with events := [.reset], responses := s.responses ++ List.replicate ws.length (faultResponse c) }) rfl rfl rfl
    exact (runEvents_commands_of_fault hf ws [.reset]).trans (reset.trans (runEvents_of_no_event rfl))

/-- Settles O19: a word that leaves a fault did not complete, so it took that fault alone. -/
theorem faultEntryIsPrecise : Obligations.FaultEntryIsPrecise := by
  intro w s t c hf h hc
  obtain ⟨c', hx⟩ | ⟨u, hx, hu⟩ := issue_faults_or_completes (w := w) hf
  · obtain rfl := next_injective (h.symm.trans hx)
    obtain rfl : c' = c := Option.some.inj hc
    rfl
  · obtain rfl := next_injective (h.symm.trans hx)
    cases hu.symm.trans hc

/-- Settles O21, one check after the other. -/
theorem checksApplyInOrder : Obligations.ChecksApplyInOrder := by
  refine fun w s => ⟨fun c hf => issue_of_fault hf, fun hf hw => issue_of_illegal (decode_ne_ok_of_illegal hw) hf,
    fun i hf hi c hu => ?_, fun i hf hi hu => ?_⟩
  · exact (issue_of_decode hi).trans (exec_of_unset hf hu)
  · obtain ⟨t, hx, ht⟩ := exists_exec_fault_free hf hu
    exact ⟨t, (issue_of_decode hi).trans hx, issue_of_decode hi, ht⟩

end Sys2Proof.Proofs
end

section
/-! SUPPORT. Runs of an initialised block (R242, R246), and the frame protocol of R243 as a stream of symbols: what the host has sent so
far is the encoder's stream of the data bytes, the parity bytes and the end of the frame, so a decoder follows it (R107). Then the
statements of spec/70_reset_and_hazards.md. -/

namespace Sys2Proof.Machine

/-! ### An initialised block (R242, R246) -/

/-- A command reads no unset field where every field is set. -/
theorem unsetFault_of_initialised {s : State} (h : s.initialised) (i : Instr) : unsetFault i s = none := by
  obtain ⟨-, he, hd, hp⟩ := h
  simp [unsetFault, Option.isNone_eq_false_iff.2 he, Option.isNone_eq_false_iff.2 hd, Option.isNone_eq_false_iff.2 hp]

/-- No command takes a field back to `none` (R33), so one on an initialised block completes and leaves it initialised. -/
theorem exec_keeps_initialised {s : State} (h : s.initialised) (i : Instr) :
    ∃ t, exec i s = .next t ∧ t.initialised ∧ t.responses.length = s.responses.length + 1 := by
  have hu := unsetFault_of_initialised h i
  obtain ⟨hf, he, hd, hp⟩ := h
  obtain ⟨t, st, d, x, hc⟩ := exec_completes hf hu
  exact ⟨_, hc.answer, ⟨hc.fault, hc.keepsEncRd he, hc.keepsDecRd hd, hc.keepsParity hp⟩, by simp [hc.responses]⟩

/-! ### The host's actions (R80) -/

@[simp] theorem hostIssue_eq_exec (i : Instr) (s : State) : hostIssue i s = exec i s := issue_of_decode (decode_encode i)

@[simp] theorem lastData_answered (s : State) (w : ResponseWord) : lastData (s.answered w) = responseData w := by
  simp [lastData]

theorem plain_of_exec {i : Instr} {x : Transmission} {t : State} (h : exec i x.block = .next t) :
    plain i x = .next { x with block := t } := by
  rw [plain, hostIssue_eq_exec, h, andThen_next]

theorem send_of_exec {i : Instr} {x : Transmission} {t : State} (h : exec i x.block = .next t) :
    send i x = .next { block := t, words := x.words ++ [lastData t] } := by
  rw [send, hostIssue_eq_exec, h, andThen_next]

theorem inOrder_append {α : Type} (act : α → Transmission → TxAnswer) (as bs : List α) (x : Transmission) :
    inOrder act (as ++ bs) x = andThen (inOrder act as x) (inOrder act bs) := by
  induction as generalizing x with
  | nil => rfl
  | cons a as ih =>
    simp only [List.cons_append, inOrder]
    cases act a x with
    | next y => exact ih y
    | fault r => rfl
    | refused r => rfl

theorem inOrder_map {α β : Type} (act : β → Transmission → TxAnswer) (f : α → β) (as : List α) (x : Transmission) :
    inOrder act (as.map f) x = inOrder (fun a => act (f a)) as x := by
  induction as generalizing x with
  | nil => rfl
  | cons a as ih => simp only [List.map_cons, inOrder, funext ih]

/-- A host program completes where each action does, given what the actions before it (`done`) have left. -/
theorem inOrder_completes {α : Type} {act : α → Transmission → TxAnswer} {P : List α → Transmission → Prop}
    (step : ∀ done a x, P done x → ∃ y, act a x = .next y ∧ P (done ++ [a]) y) (as : List α) {done : List α} {x : Transmission}
    (hx : P done x) : ∃ y, inOrder act as x = .next y ∧ P (done ++ as) y := by
  induction as generalizing done x with
  | nil => exact ⟨x, rfl, by simpa using hx⟩
  | cons a as ih =>
    obtain ⟨y, hy, hP⟩ := step done a x hx
    obtain ⟨z, hz, hQ⟩ := ih hP
    exact ⟨z, by rw [inOrder, hy, andThen_next, hz], by simpa using hQ⟩

/-! ### What the host has sent (R243) -/

/-- The words of a stream of symbols from disparity `r`. -/
def streamWords (r : Disparity) (xs : List LineSymbol) : List ChannelWord := (streamResponses r xs).map responseData

theorem streamNext_concat (r : Disparity) (xs : List LineSymbol) (a : LineSymbol) :
    streamNext r (xs ++ [a]) = symbolNext (streamNext r xs) a := List.foldl_concat ..

theorem streamResponses_concat (r : Disparity) (xs : List LineSymbol) (a : LineSymbol) :
    streamResponses r (xs ++ [a]) = streamResponses r xs ++ [symbolResponse (streamNext r xs) a] := by
  induction xs generalizing r with
  | nil => rfl
  | cons x xs ih => exact congrArg (symbolResponse r x :: ·) (ih (symbolNext r x))

/-- Without a fault, the host has sent the stream `xs` that began at disparity `r`; the register holds `p`, and the decoder's
disparity is `d`, which no encoder command moves. -/
structure HasSent (d : Option Disparity) (r : Disparity) (xs : List LineSymbol) (p : Parity) (x : Transmission) : Prop where
  fault : x.block.fault = none
  encRd : x.block.encRd = some (streamNext r xs)
  decRd : x.block.decRd = d
  parity : x.block.parity = some p
  words : x.words = streamWords r xs

section
variable {d : Option Disparity} {r : Disparity} {xs : List LineSymbol} {p : Parity} {x : Transmission}

theorem HasSent.answered (h : HasSent d r xs p x) (w : ResponseWord) :
    HasSent d r xs p { x with block := x.block.answered w } := ⟨h.fault, h.encRd, h.decRd, h.parity, h.words⟩

theorem HasSent.setParity (h : HasSent d r xs p x) (q : Parity) :
    HasSent d r xs q { x with block := x.block.setParity q } := ⟨h.fault, h.encRd, h.decRd, rfl, h.words⟩

theorem send_symbol (h : HasSent d r xs p x) (a : LineSymbol) :
    ∃ y, send (symbolCommand a) x = .next y ∧ HasSent d r (xs ++ [a]) p y := by
  refine ⟨_, send_of_exec (exec_symbolCommand h.fault h.encRd a), h.fault, ?_, h.decRd, h.parity, ?_⟩
  · simp [streamNext_concat]
  · simp [h.words, streamWords, streamResponses_concat]

/-- `tx B`: the byte goes into the register and onto the line. -/
theorem runPseudo_tx (h : HasSent d r xs p x) (b : Byte) :
    ∃ y, runPseudo (.tx b) x = .next y ∧ HasSent d r (xs ++ [some b]) (rsStep p b) y := by
  rw [runPseudo, plain_of_exec (exec_rsUpdate h.fault h.parity b), andThen_next]
  exact send_symbol ((h.setParity _).answered _) (some b)

/-- `rs.read i ; enc.byte RESP.data`: the byte of the register goes onto the line and stays in the register. -/
theorem sendParityByte_sends (h : HasSent d r xs p x) (i : BitVec 5) :
    ∃ y, sendParityByte i x = .next y ∧ HasSent d r (xs ++ [some (p[i.toNat]'i.isLt)]) p y := by
  have hbyte : (zext10 (p[i.toNat]'i.isLt)).setWidth 8 = p[i.toNat]'i.isLt := by simp [zext10]
  rw [sendParityByte, plain_of_exec (exec_rsRead h.fault h.parity i), andThen_next, lastData_answered, responseData_pack, hbyte]
  exact send_symbol (h.answered _) (some _)

theorem parityIndices_map_getElem (p : Parity) : parityIndices.map (fun i => p[i.toNat]'i.isLt) = p.toList := by
  refine List.ext_getElem (by simp [parityIndices]) fun n hn _ => ?_
  have hn32 : n < 32 := by simpa [parityIndices] using hn
  simp [parityIndices, Nat.mod_eq_of_lt hn32]

theorem sendParity_sends (h : HasSent d r xs p x) :
    ∃ y, sendParity x = .next y ∧ HasSent d r (xs ++ p.toList.map some) p y := by
  obtain ⟨y, hy, hsent⟩ := inOrder_completes (act := sendParityByte)
    (P := fun done => HasSent d r (xs ++ (done.map fun i => p[i.toNat]'i.isLt).map some) p)
    (fun done i x hx => by simpa using sendParityByte_sends hx i) parityIndices (done := []) (by simpa using h)
  exact ⟨y, hy, by rwa [List.nil_append, parityIndices_map_getElem] at hsent⟩

theorem runPseudo_txEnd (h : HasSent d r xs p x) :
    ∃ y, runPseudo .txEnd x = .next y ∧ HasSent d r (xs ++ p.toList.map some ++ [none]) p y := by
  obtain ⟨y, hy, hsent⟩ := sendParity_sends h
  rw [runPseudo, hy, andThen_next]
  exact send_symbol hsent none

/-- The `tx` of each data byte, after `frame.start`. -/
theorem inOrder_tx_sends (h : HasSent d r [] zeroParity x) (data : List Byte) :
    ∃ y, inOrder runPseudo (data.map Pseudo.tx) x = .next y ∧ HasSent d r (data.map some) (parityAfter zeroParity data) y := by
  rw [inOrder_map]
  exact inOrder_completes (P := fun done => HasSent d r (done.map some) (parityAfter zeroParity done))
    (fun done b x hx => by simpa [parityAfter] using runPseudo_tx hx b) data (done := []) h

end

/-- The symbols of a frame, in transmission order (R53): the data bytes, the parity bytes, the end of the frame. -/
def frameSymbols (data : List Byte) : List LineSymbol := (data ++ (parityAfter zeroParity data).toList).map some ++ [none]

theorem sendFrame_sends {s : State} {r : Disparity} (hf : s.fault = none) (he : s.encRd = some r) (data : List Byte) :
    ∃ y, sendFrame data ⟨s, []⟩ = .next y ∧ HasSent s.decRd r (frameSymbols data) (parityAfter zeroParity data) y := by
  have hstart : HasSent s.decRd r [] zeroParity ⟨(s.setParity zeroParity).answered (packResponse .ok 0#1 0#10), []⟩ :=
    ⟨hf, he, rfl, rfl, rfl⟩
  obtain ⟨y, hy, hdata⟩ := inOrder_tx_sends hstart data
  obtain ⟨z, hz, hend⟩ := runPseudo_txEnd hdata
  refine ⟨z, ?_, by rwa [frameSymbols, List.map_append]⟩
  rw [sendFrame, framePseudos, inOrder, runPseudo, plain_of_exec (exec_rsReset hf), andThen_next, inOrder_append, hy, andThen_next,
    inOrder, hz, andThen_next, inOrder]

/-! ### What the receiver answers (R107, R135) -/

/-- Accepted data bytes are answered OK, each with its byte. -/
theorem acceptance_of_bytes (bytes : List Byte) {encs : List ResponseWord} (h : encs.length = bytes.length) :
    (List.zipWith acceptance (bytes.map some) encs).map responseStatus = List.replicate bytes.length 0#3 ∧
      (List.zipWith acceptance (bytes.map some) encs).map responseData = bytes.map zext10 := by
  induction bytes generalizing encs with
  | nil => exact ⟨rfl, rfl⟩
  | cons b bytes ih =>
    cases encs with
    | nil => cases h
    | cons e encs =>
      obtain ⟨hstatus, hdata⟩ := ih (Nat.succ.inj h)
      simp [acceptance, Status.code, hstatus, hdata, List.replicate_succ]

/-- The answers to bytes and a final end of the frame: OK with each byte, then SYNC. -/
theorem acceptance_of_frame (r : Disparity) (bytes : List Byte) {acks : List ResponseWord}
    (h : acks = List.zipWith acceptance (bytes.map some ++ [none]) (streamResponses r (bytes.map some ++ [none]))) :
    acks.map responseStatus = List.replicate bytes.length 0#3 ++ [3#3] ∧
      (acks.take bytes.length).map responseData = bytes.map zext10 := by
  have hlen : (streamResponses r (bytes.map some)).length = bytes.length := by rw [length_streamResponses, List.length_map]
  obtain ⟨hstatus, hdata⟩ := acceptance_of_bytes bytes hlen
  rw [streamResponses_concat, List.zipWith_append (by simp [hlen])] at h
  subst h
  constructor
  · simp [hstatus, acceptance, Status.code]
  · rw [List.take_left' (by simp [hlen]), hdata]

end Sys2Proof.Machine

/-! ### The statements -/

namespace Sys2Proof.Proofs

open Sys2Proof.Machine

/-- Settles O52: the frame is a stream of symbols, and the decoder accepts every encoded stream. -/
theorem frameIsSentAndReceived : Obligations.FrameIsSentAndReceived := by
  intro s r data hf he
  obtain ⟨⟨t, words⟩, hrun, hsent⟩ := sendFrame_sends hf he data
  obtain rfl : words = streamWords r (frameSymbols data) := hsent.words
  refine ⟨t, _, _, _, hrun, hsent.fault, hsent.encRd, hsent.decRd, hsent.parity, rfl, ?_, fun u hu hd => ?_⟩
  · simp [streamWords, length_streamResponses, frameSymbols]
  · have hrecv := execAll_decValidate_stream (frameSymbols data) hu hd
    have hacks := acceptance_of_frame r (data ++ (parityAfter zeroParity data).toList) rfl
    rw [List.length_append, Vector.length_toList] at hacks
    exact ⟨_, by rw [streamWords, List.map_map]; exact hrecv, hacks⟩

/-- Settles O51, by induction on the commands. -/
theorem initialisedBlockNeverFaults : Obligations.InitialisedBlockNeverFaults := by
  intro cs
  induction cs with
  | nil => exact fun s h => ⟨s, rfl, h, rfl⟩
  | cons i cs ih =>
    intro s h
    obtain ⟨t, ht, hinit, hlen⟩ := exec_keeps_initialised h i
    obtain ⟨u, hu, huinit, hulen⟩ := ih t hinit
    exact ⟨u, by rw [execAll, ht, andThen_next, hu], huinit, by simp only [hulen, hlen, List.length_cons]; omega⟩

/-- Settles O16. -/
theorem stepWithoutEventStops : Obligations.StepWithoutEventStops := fun s he => by
  simp only [step, takeEvent, he]

/-- Settles O17: a command word in a faulted block only answers. -/
theorem resetEventClearsTheBlock : Obligations.ResetEventClearsTheBlock := by
  refine ⟨fun s rest he => ?_, rfl, fun w s t c hf h => ?_⟩
  · simp only [step, takeEvent, he, handleEvent, hostReset]
  · obtain rfl := next_injective ((issue_of_fault hf).symm.trans h)
    exact hf

/-- Settles O50: each of the six orders runs to that block. -/
theorem initialisationInAnyOrder : Obligations.InitialisationInAnyOrder := by
  intro enc dec cs h
  have orders : cs ∈ [[.encSetRd enc, .decSetRd dec, .rsReset], [.decSetRd dec, .encSetRd enc, .rsReset],
      [.decSetRd dec, .rsReset, .encSetRd enc], [.encSetRd enc, .rsReset, .decSetRd dec],
      [.rsReset, .encSetRd enc, .decSetRd dec], [.rsReset, .decSetRd dec, .encSetRd enc]] := List.mem_permutations'.2 h
  simp only [List.mem_cons, List.not_mem_nil, or_false] at orders
  obtain rfl | rfl | rfl | rfl | rfl | rfl := orders <;> exact ⟨_, rfl, rfl⟩

end Sys2Proof.Proofs
end
